-- ==== Sys2Proof/Word.lean ====
section
/-! DEFINITION. The data types of the core: bytes, host addresses, 16-byte blocks and 4-byte groups
(spec/00_scope.md R5, R7; spec/20_memory.md R40, R42, R47). -/

namespace Sys2Proof

/-- R7: a byte is an 8-bit value; bit 0 is the least significant and, as an element of GF(2^8), bit `k`
is the coefficient of x^k. `DATA_BITS` = 8 (00_scope.md section 5). -/
abbrev Byte := BitVec 8

/-- R40, R42: a host address has 9 bits (`ADDR_BITS`), and a wider one cannot be presented to the core. -/
abbrev Addr := BitVec 9

/-- R5, R7: a block is exactly 16 bytes (`BLOCK_BYTES`); byte `i` is the element in row `i mod 4`, column
`i div 4` of the state matrix. -/
abbrev Block := Vector Byte 16

/-- Four bytes in index order: a word of the key schedule (R47 (c)) or a column of a block (R126). -/
abbrev Quad := Vector Byte 4

end Sys2Proof
end

