-- ==== Sys2Proof/Syntax.lean ====
section
/-! DEFINITION. The commands of the core (spec/30_encoding.md R60, R61), the host events that drive it
(spec/00_scope.md R6; spec/30_encoding.md R67) and the macros of host scripts (R68). -/

namespace Sys2Proof

/-- The six commands of R61, one constructor per row of spec/opcode_table.json. No command carries an
operand: the byte is opcode alone (R60) and every operand is a register (R66). -/
inductive Instr where
  | nop
  | expand
  | encrypt
  | decrypt
  | gfmul
  | clear
  deriving DecidableEq, Repr

/-- The three kinds of event by which the host drives the core (R6); one line of a host script (R67). -/
inductive HostEvent where
  /-- `Reset` (R185); script line `RST`. -/
  | reset
  /-- `Write(addr, byte)` (R45); script line `WR addr, byte`. A command is a write to `CMD` (R155). -/
  | write (addr : Addr) (value : Byte)
  /-- `Read(addr)` (R44); script line `RD addr`. -/
  | read (addr : Addr)
  deriving DecidableEq, Repr

/-- The macros of host scripts (R68). Each stands for a list of host events (Machine/Script.lean). -/
inductive Macro where
  /-- `LDKEY b0 b1 ... b(n-1)`, n ≤ 32. -/
  | ldkey (bytes : List Byte)
  /-- `LDBLK b0 ... b15`. -/
  | ldblk (block : Block)
  /-- `RDBLK`. -/
  | rdblk
  /-- `RDRK r`: round key `r`, 0 to 14. -/
  | rdrk (r : Nat)
  /-- `ENC`. -/
  | enc
  /-- `DEC`. -/
  | dec
  /-- `EXP`. -/
  | exp
  /-- `MUL a, b`. -/
  | mul (a b : Byte)
  deriving DecidableEq, Repr

end Sys2Proof
end

