-- ==== Sys2Proof/Config.lean ====
section
/-! DEFINITION. The parameters of the core (spec/00_scope.md R4, section 5) and the values the spec leaves
open (spec/93_implementation_defined.md U6, U13). -/

namespace Sys2Proof

/-- R4: the three valid key sizes, and no other. Their figures (bytes, round keys, schedule bytes) are in
Machine/Operands.lean. -/
inductive KeySize where
  | k16
  | k24
  | k32
  deriving DecidableEq, Repr

/-- `LATENCY(cmd, KS)` (00_scope.md section 5, R190, U13): an open parameter that no rule reads and for
which the spec gives no figure. `none` stands for "no valid key size plays a part". No body: nothing can be
proved about its values (notes/assumptions/3.md). -/
opaque Config.latency : Instr → Option KeySize → Nat

/-- The round constant outside the indices 1 to 10 (R105, U6): the spec leaves it undefined and the engine
never asks for it (R116). A FREE VALUE without a body (notes/assumptions/4.md). -/
opaque Config.rconOutside : Nat → Byte

end Sys2Proof
end

