-- ==== Sys2Proof/WellFormed.lean ====
section
/-! DEFINITION. Well-formedness of commands, command bytes and script macros (spec/30_encoding.md R60, R61,
R62, R68). -/

namespace Sys2Proof

/-- A command has no register number, immediate, mode or length field (R60), so every term of `Instr` is
well formed; one line per constructor, so that a new one cannot slip past. -/
def Instr.wellFormed (i : Instr) : Bool :=
  match i with
  | .nop => true
  | .expand => true
  | .encrypt => true
  | .decrypt => true
  | .gfmul => true
  | .clear => true

/-- A command byte is defined exactly when it is one of 0x00 to 0x05; 0x06 to 0xFF are illegal (R61, R62). -/
def codeDefined (c : Byte) : Bool := c.toNat ≤ 5

/-- R68: `LDKEY` takes at most 32 bytes (a count that is no valid key size is legal); the last round key that
`RDRK` can name is 14, whose bytes end `RK` (R41). -/
def Macro.wellFormed (m : Macro) : Bool :=
  match m with
  | .ldkey bytes => bytes.length ≤ 32
  | .ldblk _ => true
  | .rdblk => true
  | .rdrk r => r ≤ 14
  | .enc => true
  | .dec => true
  | .exp => true
  | .mul _ _ => true

end Sys2Proof
end

