-- ==== Sys2Proof/Decode.lean ====
section
/-! DEFINITION. The command decoder and encoder (spec/30_encoding.md R60 to R62, R69; spec/opcode_table.json). -/

namespace Sys2Proof

/-- Why a command byte is refused by the decoder. -/
inductive DecodeError where
  /-- R62: the byte is 0x06 to 0xFF and names no command. The machine then raises IllegalCommand (R158). -/
  | illegalCode (c : Byte)
  deriving DecidableEq, Repr

/-- One row of the opcode table: a byte `c` is the row's command when `c & mask = pattern`. -/
structure OpcodeRow where
  pattern : Byte
  mask : Byte
  instr : Instr
  deriving DecidableEq, Repr

/-- The opcode map of R61 as spec/opcode_table.json lists it (match and mask of every row). -/
def opcodeTable : List OpcodeRow :=
  [ ⟨0x00, 0xFF, .nop⟩,
    ⟨0x01, 0xFF, .expand⟩,
    ⟨0x02, 0xFF, .encrypt⟩,
    ⟨0x03, 0xFF, .decrypt⟩,
    ⟨0x04, 0xFF, .gfmul⟩,
    ⟨0x05, 0xFF, .clear⟩ ]

/-- The command that a byte written to `CMD` names. Decoding compares all eight bits (R61); a byte that no
row matches is refused by name (R62). -/
def decode (c : Byte) : Except DecodeError Instr :=
  match opcodeTable.find? (fun row => c &&& row.mask == row.pattern) with
  | some row => .ok row.instr
  | none => .error (.illegalCode c)

/-- The command byte of a command (R61). -/
def encode (i : Instr) : Byte :=
  match i with
  | .nop => 0x00
  | .expand => 0x01
  | .encrypt => 0x02
  | .decrypt => 0x03
  | .gfmul => 0x04
  | .clear => 0x05

/-- The decoder on a row's bits as the opcode table numbers them: every command is one byte (R69), bit 0
its least significant bit. -/
def decodeTableWord (nbits w : Nat) : Option Instr :=
  if nbits = 8 ∧ w < 256 then
    match decode (BitVec.ofNat 8 w) with
    | .ok i => some i
    | .error _ => none
  else none

end Sys2Proof
end

