-- ==== Sys2Proof/Machine/State.lean ====
section
/-! DEFINITION. The state of the machine: the registers of spec/10_state.md R10 and the host's side of the
port (spec/00_scope.md R6); the state after reset (R32, R185). -/

namespace Sys2Proof.Machine

/-- The complete architectural state of the core (R10): 312 bytes and nothing else. `CMD` is a write-only
trigger and no state (R23); the tables are constants (R27); the sequencer's temporaries do not outlive a
command (R28). -/
structure Regs where
  /-- `KEY[0..31]` (R11), operand. -/
  key : Vector Byte 32
  /-- `KSIZE` (R14): the key's length in bytes, any value 0 to 255. -/
  ksize : Byte
  /-- `DIN[0..15]` (R15), the input block. -/
  din : Block
  /-- `GFA` (R17), multiplier operand a. -/
  gfa : Byte
  /-- `GFB` (R17), multiplier operand b. -/
  gfb : Byte
  /-- `DOUT[0..15]` (R16), the output block of the last successful ENCRYPT or DECRYPT. -/
  dout : Block
  /-- `GFP` (R18), the multiplier's product. -/
  gfp : Byte
  /-- `RK[0..239]` (R19), the round-key memory. -/
  rk : Vector Byte 240
  /-- `ROUNDS` (R21). -/
  rounds : Byte
  /-- `RKLEN` (R22). -/
  rklen : Byte
  /-- `STATUS` (R24): bit 0 `DONE`, bit 1 `ERR`, bits 7 to 2 zero. -/
  status : Byte
  /-- `ERRCODE` (R25). -/
  errcode : Byte
  deriving DecidableEq, Repr

/-- The machine: the core's registers, and the host's side of the port as plain data. `pending` and
`replies` are the MODEL's own fields, not the spec's (notes/assumptions/1.md). -/
structure State where
  /-- The architectural state of the core. -/
  regs : Regs
  /-- Host events not yet performed, in the order the host issues them (R6, R49). -/
  pending : List HostEvent
  /-- The bytes that the `Read` events performed so far returned (R44), oldest first. -/
  replies : List Byte
  deriving DecidableEq, Repr

/-- The machine has no fault: every host event has exactly one defined next state
(spec/93_implementation_defined.md, after U18), and an error is a status, not a halt (R171). So this type
has no constructor and no step can answer `fault`. -/
inductive Fault where
  deriving DecidableEq, Repr

/-- Why a step has no meaning. -/
inductive Refusal where
  /-- Raised by an arm of `exec` whose command has no meaning yet; safe. No arm does: every command of the
  opcode table has its meaning. -/
  | notModelled (mnemonic : String)
  deriving DecidableEq, Repr

/-- R32: after `Reset` every byte of architectural state is zero. -/
def Regs.reset : Regs where
  key := Vector.replicate 32 0x00
  ksize := 0x00
  din := Vector.replicate 16 0x00
  gfa := 0x00
  gfb := 0x00
  dout := Vector.replicate 16 0x00
  gfp := 0x00
  rk := Vector.replicate 240 0x00
  rounds := 0x00
  rklen := 0x00
  status := 0x00
  errcode := 0x00

/-- The machine right after reset (R32, R185), with no host event waiting and no reply given. -/
def State.reset : State where
  regs := Regs.reset
  pending := []
  replies := []

end Sys2Proof.Machine
end

