-- ==== Sys2Proof/Machine/Operands.lean ====
section
/-! DEFINITION. The operands of the commands: the key size, the key, the block and the multiplier operands
(spec/10_state.md R11 to R17; spec/30_encoding.md R63, R66; spec/00_scope.md R4). -/

namespace Sys2Proof

/-- R4, R63: the key length in bytes. -/
def KeySize.bytes : KeySize → Nat
  | .k16 => 16
  | .k24 => 24
  | .k32 => 32

/-- R4: `rounds(KS)`, the number of round keys, round 0 included. -/
def KeySize.rounds : KeySize → Nat
  | .k16 => 11
  | .k24 => 13
  | .k32 => 15

/-- R4: `sched(KS)`, the schedule size in bytes. -/
def KeySize.sched : KeySize → Nat
  | .k16 => 176
  | .k24 => 208
  | .k32 => 240

namespace Machine

/-- The key-size check (R14, R63, R113): exactly 0x10, 0x18 and 0x20 are valid. -/
def keySizeOf (b : Byte) : Option KeySize :=
  if b = 0x10 then some .k16
  else if b = 0x18 then some .k24
  else if b = 0x20 then some .k32
  else none

/-- The key operand, `KEY[0..KS-1]` (R12): the bytes from `KS` on are never read. -/
def Regs.keyOperand (r : Regs) (ks : KeySize) : List Byte :=
  r.key.toList.take ks.bytes

/-- The block operand of ENCRYPT and DECRYPT, `DIN[0..15]` (R15). -/
def Regs.blockOperand (r : Regs) : Block := r.din

/-- The operands of GFMUL, `GFA` and `GFB` (R17). -/
def Regs.fieldOperands (r : Regs) : Byte × Byte := (r.gfa, r.gfb)

end Machine

end Sys2Proof
end

