-- ==== Sys2Proof/Machine/Field.lean ====
section
/-! DEFINITION. The field arithmetic unit: `mul` and `xtime` in GF(2^8)
(spec/40_gf_arithmetic.md R80, R82). Addition is `^^^` (R83). No table is used (90_conflicts.md C7). -/

namespace Sys2Proof.Machine

/-- The low byte of the reduction polynomial x^8+x^4+x^3+x+1, bit pattern 0x11B (R80). -/
def polyLow : Byte := 0x1B

/-- The loop of R80, `n` iterations left, with accumulator `p`. -/
def mulLoop : Nat → Byte → Byte → Byte → Byte
  | 0, p, _, _ => p
  | n + 1, p, a, b =>
    mulLoop n
      (if b.getLsbD 0 then p ^^^ a else p)
      (if a.getLsbD 7 then (a <<< 1) ^^^ polyLow else a <<< 1)
      (b >>> 1)

/-- The GF(2^8) product (R80): always 8 iterations, no early exit. -/
def mul (a b : Byte) : Byte := mulLoop 8 0x00 a b

/-- Doubling (R82): `x << 1`, with 0x1B XORed in when the high bit was set before the shift. -/
def xtime (x : Byte) : Byte :=
  if x.getLsbD 7 then (x <<< 1) ^^^ polyLow else x <<< 1

end Sys2Proof.Machine
end

