-- ==== Sys2Proof/Machine/KeySchedule.lean ====
section
/-! DEFINITION. The key-expansion engine (spec/42_key_schedule.md R105 to R111, R116). -/

namespace Sys2Proof.Machine

/-- `c` doubled `k` times (the loop of R105). -/
def doubled : Nat → Byte → Byte
  | 0, c => c
  | k + 1, c => doubled k (xtime c)

/-- R105: the round constant of the `j`-th application of the core transform, 1 ≤ j ≤ 10. Outside that
range the spec gives no value (U6) and the value is free. -/
def rcon (j : Nat) : Byte :=
  if 1 ≤ j ∧ j ≤ 10 then doubled (j - 1) 0x01 else Config.rconOutside j

/-- Byte-by-byte XOR of two words. -/
def xorQuad (a b : Quad) : Quad := Vector.ofFn fun k : Fin 4 => a[k.val] ^^^ b[k.val]

/-- R106: RotWord, rotate the four bytes left by one position. -/
def rotWord (t : Quad) : Quad := #v[t[1], t[2], t[3], t[0]]

/-- R107: SubWord, every byte through the forward S-box. -/
def subWord (t : Quad) : Quad := Vector.ofFn fun k : Fin 4 => sbox t[k.val]

/-- R108: KeyCore with the round constant given as a byte, XORed into byte 0 only. -/
def keyCoreWith (c : Byte) (t : Quad) : Quad :=
  let u := subWord (rotWord t)
  #v[u[0] ^^^ c, u[1], u[2], u[3]]

/-- R108: KeyCore, the core transform of the key schedule. -/
def keyCore (t : Quad) (j : Nat) : Quad := keyCoreWith (rcon j) t

/-- The word at offset `n` of the bytes produced so far (R47 (c)). The engine only asks inside them
(R84: `n - KS` and `n - 4` with `n ≥ KS ≥ 16`). -/
def wordAt (w : List Byte) (n : Nat) : Quad := Vector.ofFn fun k : Fin 4 => w.getD (n + k.val) 0x00

/-- The loop of R109 with the round-constant function as an argument: `n` bytes are produced, `j` is the
index of the next application of the core transform, and `fuel` bounds the iterations (it never runs out:
R111). -/
def expandLoop (rc : Nat → Byte) (ks : KeySize) : Nat → List Byte → Nat → Nat → List Byte
  | 0, w, _, _ => w
  | fuel + 1, w, n, j =>
    if n < ks.sched then
      let t := wordAt w (n - 4)
      let old := wordAt w (n - ks.bytes)
      if n % ks.bytes = 0 then
        expandLoop rc ks fuel (w ++ (xorQuad old (keyCoreWith (rc j) t)).toList) (n + 4) (j + 1)
      else if ks = .k32 ∧ n % ks.bytes = 16 then
        expandLoop rc ks fuel (w ++ (xorQuad old (subWord t)).toList) (n + 4) j
      else
        expandLoop rc ks fuel (w ++ (xorQuad old t).toList) (n + 4) j
    else w

/-- `expand` with the round-constant function as an argument: seeded with the key, `n = KS`, `j = 1`. The
bound 60 is the number of words of the largest schedule. -/
def expandWith (rc : Nat → Byte) (ks : KeySize) (key : List Byte) : List Byte :=
  expandLoop rc ks 60 key ks.bytes 1

/-- R109: `expand(key)`, the round-key sequence of a key of `ks.bytes` bytes. -/
def expand (ks : KeySize) (key : List Byte) : List Byte := expandWith rcon ks key

end Sys2Proof.Machine
end

