-- ==== Sys2Proof/Machine/Cipher.lean ====
section
/-! DEFINITION. The forward block cipher (spec/43_encrypt.md R125 to R130). -/

namespace Sys2Proof.Machine

/-- R125: AddRoundKey, byte `i` of the block meets byte `16*r + i` of the round-key sequence. -/
def addRoundKey (st : Block) (w : List Byte) (r : Nat) : Block :=
  Vector.ofFn fun i : Fin 16 => st[i.val] ^^^ w.getD (16 * r + i.val) 0x00

/-- Column `c` of a block: the bytes `4c` to `4c+3` (R126, column-major order). -/
def column (st : Block) (c : Fin 4) : Quad :=
  Vector.ofFn fun k : Fin 4 => st[4 * c.val + k.val]'(by have := c.isLt; have := k.isLt; omega)

/-- A function of one column, applied to each of the four columns on its own (R126, R140). -/
def onColumns (f : Quad → Quad) (st : Block) : Block :=
  Vector.ofFn fun i : Fin 16 =>
    (f (column st ⟨i.val / 4, by have := i.isLt; omega⟩))[i.val % 4]'(by omega)

/-- R127: one column of MixColumns in the doubling form, which is what the forward cipher computes. -/
def mixColumn (s : Quad) : Quad :=
  #v[ xtime s[0] ^^^ (xtime s[1] ^^^ s[1]) ^^^ s[2] ^^^ s[3],
      s[0] ^^^ xtime s[1] ^^^ (xtime s[2] ^^^ s[2]) ^^^ s[3],
      s[0] ^^^ s[1] ^^^ xtime s[2] ^^^ (xtime s[3] ^^^ s[3]),
      (xtime s[0] ^^^ s[0]) ^^^ s[1] ^^^ s[2] ^^^ xtime s[3] ]

/-- R126: one column of MixColumns by the matrix with first row 02 03 01 01. The machine computes
`mixColumn`; R127 requires the two to agree bit for bit. -/
def mixColumnByMul (s : Quad) : Quad :=
  #v[ mul 0x02 s[0] ^^^ mul 0x03 s[1] ^^^ s[2] ^^^ s[3],
      s[0] ^^^ mul 0x02 s[1] ^^^ mul 0x03 s[2] ^^^ s[3],
      s[0] ^^^ s[1] ^^^ mul 0x02 s[2] ^^^ mul 0x03 s[3],
      mul 0x03 s[0] ^^^ s[1] ^^^ s[2] ^^^ mul 0x02 s[3] ]

/-- R126: MixColumns. -/
def mixColumns (st : Block) : Block := onColumns mixColumn st

/-- R128: a full forward round with round key `r`. -/
def forwardRound (w : List Byte) (st : Block) (r : Nat) : Block :=
  addRoundKey (mixColumns (shiftRows (subBytes st))) w r

/-- R129: the final round, without diffusion, with round key `rounds - 1`. -/
def finalRound (w : List Byte) (ks : KeySize) (st : Block) : Block :=
  addRoundKey (shiftRows (subBytes st)) w (ks.rounds - 1)

/-- R130 on a round-key sequence `w`: round 0, then the full rounds 1 to `rounds - 2`, then the final
round. -/
def cipher (ks : KeySize) (w : List Byte) (block : Block) : Block :=
  finalRound w ks
    ((List.range' 1 (ks.rounds - 2)).foldl (forwardRound w) (addRoundKey block w 0))

/-- R130: `encrypt(block, key)`. -/
def encrypt (ks : KeySize) (block : Block) (key : List Byte) : Block :=
  cipher ks (expand ks key) block

end Sys2Proof.Machine
end

