-- ==== Sys2Proof/Machine/Flags.lean ====
section
/-! DEFINITION. The two flags of `STATUS` and the codes of `ERRCODE` (spec/10_state.md R24, R25;
spec/30_encoding.md R64, R65). No datapath function writes a flag (R84). -/

namespace Sys2Proof.Machine

/-- The two errors of the core (R165). -/
inductive CommandError where
  /-- R166: `KSIZE` is not 16, 24 or 32 when EXPAND, ENCRYPT or DECRYPT runs. -/
  | invalidKeySize
  /-- R167: a write of 0x06 to 0xFF to `CMD`. -/
  | illegalCommand
  deriving DecidableEq, Repr

/-- The code of an error in `ERRCODE` (R65). -/
def CommandError.code : CommandError → Byte
  | .invalidKeySize => 0x01
  | .illegalCommand => 0x02

/-- `ERRCODE` when no error is recorded (R65). -/
def noError : Byte := 0x00

/-- `STATUS` after a success: `DONE` = 1, `ERR` = 0 (R64). -/
def statusSuccess : Byte := 0x01

/-- `STATUS` after an error: `DONE` = 0, `ERR` = 1 (R64). -/
def statusError : Byte := 0x02

/-- `STATUS.DONE`, bit 0 (R64): the most recent command other than NOP succeeded. -/
def Regs.doneFlag (r : Regs) : Bool := r.status.getLsbD 0

/-- `STATUS.ERR`, bit 1 (R64): the most recent command other than NOP was rejected. -/
def Regs.errFlag (r : Regs) : Bool := r.status.getLsbD 1

end Sys2Proof.Machine
end

