-- ==== Sys2Proof/Machine/RegisterMap.lean ====
section
/-! DEFINITION. The address map of the register space (spec/20_memory.md R40, R41, R47). -/

namespace Sys2Proof.Machine

/-- A location of the register space that R41 assigns a name to. -/
inductive Reg where
  | cmd
  | status
  | ksize
  | errcode
  | rounds
  | rklen
  | gfa
  | gfb
  | gfp
  | din (i : Fin 16)
  | dout (i : Fin 16)
  | key (i : Fin 32)
  | rk (i : Fin 240)
  deriving DecidableEq, Repr

/-- The address of `CMD` (R41, R60). -/
def cmdAddr : Addr := 0x000

/-- R41: the address of a location; byte `i` of an array stands at its base plus `i` (R47). -/
def addrOf : Reg → Addr
  | .cmd => cmdAddr
  | .status => 0x001
  | .ksize => 0x002
  | .errcode => 0x003
  | .rounds => 0x004
  | .rklen => 0x005
  | .gfa => 0x006
  | .gfb => 0x007
  | .gfp => 0x008
  | .din i => BitVec.ofNat 9 (0x010 + i.val)
  | .dout i => BitVec.ofNat 9 (0x020 + i.val)
  | .key i => BitVec.ofNat 9 (0x040 + i.val)
  | .rk i => BitVec.ofNat 9 (0x100 + i.val)

/-- R41: the location at an address; `none` for an unassigned address. -/
def regAt (a : Addr) : Option Reg :=
  let n := a.toNat
  if n = 0x000 then some .cmd
  else if n = 0x001 then some .status
  else if n = 0x002 then some .ksize
  else if n = 0x003 then some .errcode
  else if n = 0x004 then some .rounds
  else if n = 0x005 then some .rklen
  else if n = 0x006 then some .gfa
  else if n = 0x007 then some .gfb
  else if n = 0x008 then some .gfp
  else if h : 0x010 ≤ n ∧ n ≤ 0x01F then some (.din ⟨n - 0x010, by omega⟩)
  else if h : 0x020 ≤ n ∧ n ≤ 0x02F then some (.dout ⟨n - 0x020, by omega⟩)
  else if h : 0x040 ≤ n ∧ n ≤ 0x05F then some (.key ⟨n - 0x040, by omega⟩)
  else if h : 0x100 ≤ n ∧ n ≤ 0x1EF then some (.rk ⟨n - 0x100, by omega⟩)
  else none

/-- R41: the locations marked "R". Only `CMD` is not host-readable. -/
def Reg.hostReadable : Reg → Bool
  | .cmd => false
  | _ => true

/-- R41: the locations marked "W": `CMD`, `KSIZE`, `GFA`, `GFB`, `DIN[i]`, `KEY[i]`. Of these `CMD` is a
trigger and stores nothing (R23). -/
def Reg.hostWritable : Reg → Bool
  | .cmd => true
  | .ksize => true
  | .gfa => true
  | .gfb => true
  | .din _ => true
  | .key _ => true
  | _ => false

end Sys2Proof.Machine
end

