-- ==== Sys2Proof/Machine/Ops.lean ====
section
/-! DEFINITION. The operations that the commands and the host port share: raising an error, the success
epilogue, storing a result, reading and writing one byte of the register space. -/

namespace Sys2Proof.Machine

/-- R170: `raise E`. `STATUS` and `ERRCODE` record the error and nothing else changes: no state is saved,
no mode changes and control goes nowhere. Its counterpart is `succeed`: there is no return (R172). -/
def Regs.raise (r : Regs) (e : CommandError) : Regs :=
  { r with status := statusError, errcode := e.code }

/-- R160: the success epilogue, which also ends the error indication of an earlier command (R172). -/
def Regs.succeed (r : Regs) : Regs :=
  { r with status := statusSuccess, errcode := noError }

/-- The round-key memory that holds the schedule `w` of a key of size `ks`, zero from `sched(KS)` on
(R19, R114). -/
def scheduleMemory (ks : KeySize) (w : List Byte) : Vector Byte 240 :=
  Vector.ofFn fun i : Fin 240 => if i.val < ks.sched then w.getD i.val 0x00 else 0x00

/-- R114: store a schedule in `RK` and describe it in `ROUNDS` and `RKLEN` (R21, R22). -/
def Regs.storeSchedule (r : Regs) (ks : KeySize) (w : List Byte) : Regs :=
  { r with
    rk := scheduleMemory ks w
    rounds := BitVec.ofNat 8 ks.rounds
    rklen := BitVec.ofNat 8 ks.sched }

/-- R16: write `DOUT` as a whole. -/
def Regs.setDout (r : Regs) (b : Block) : Regs := { r with dout := b }

/-- R18: write `GFP`. -/
def Regs.setGfp (r : Regs) (v : Byte) : Regs := { r with gfp := v }

/-- The frame that EXPAND, ENCRYPT and DECRYPT share (R113, R114, R131, R144): the key size is checked
before anything else, the schedule is computed afresh from `KEY` (R115) and stored, `finish` computes what
the command adds from the size, the schedule and the registers, and the success epilogue ends it. -/
def Regs.runKeyCommand (r : Regs) (finish : KeySize → List Byte → Regs → Regs) : Regs :=
  match keySizeOf r.ksize with
  | none => r.raise .invalidKeySize
  | some ks =>
    let w := expand ks (r.keyOperand ks)
    (finish ks w (r.storeSchedule ks w)).succeed

/-- R157: CLEAR's writes, register by register. -/
def Regs.cleared (r : Regs) : Regs :=
  { r with
    key := Vector.replicate 32 0x00
    ksize := 0x00
    din := Vector.replicate 16 0x00
    dout := Vector.replicate 16 0x00
    gfa := 0x00
    gfb := 0x00
    gfp := 0x00
    rk := Vector.replicate 240 0x00
    rounds := 0x00
    rklen := 0x00
    status := 0x00
    errcode := 0x00 }

/-- The value a location holds; `CMD` holds none and reads 0x00 (R23, R44). -/
def Regs.get (r : Regs) : Reg → Byte
  | .cmd => 0x00
  | .status => r.status
  | .ksize => r.ksize
  | .errcode => r.errcode
  | .rounds => r.rounds
  | .rklen => r.rklen
  | .gfa => r.gfa
  | .gfb => r.gfb
  | .gfp => r.gfp
  | .din i => r.din[i.val]
  | .dout i => r.dout[i.val]
  | .key i => r.key[i.val]
  | .rk i => r.rk[i.val]

/-- Set a host-writable location (R45); the host cannot change any other, and `CMD` stores nothing (R23). -/
def Regs.set (r : Regs) (loc : Reg) (v : Byte) : Regs :=
  match loc with
  | .ksize => { r with ksize := v }
  | .gfa => { r with gfa := v }
  | .gfb => { r with gfb := v }
  | .din i => { r with din := r.din.set i.val v }
  | .key i => { r with key := r.key.set i.val v }
  | .cmd => r
  | .status => r
  | .errcode => r
  | .rounds => r
  | .rklen => r
  | .gfp => r
  | .dout _ => r
  | .rk _ => r

/-- R44: `MemRead(addr, 1)`. An unassigned address reads 0x00. -/
def Regs.readByte (r : Regs) (a : Addr) : Byte :=
  match regAt a with
  | some loc => if loc.hostReadable then r.get loc else 0x00
  | none => 0x00

/-- R45: `MemWrite(addr, 1, v)` for every address but `CMD`: a host-writable register takes the value; a
write to a read-only register or an unassigned address is ignored. -/
def Regs.writeByte (r : Regs) (a : Addr) (v : Byte) : Regs :=
  match regAt a with
  | some loc => if loc.hostWritable then r.set loc v else r
  | none => r

end Sys2Proof.Machine
end

