-- ==== Sys2Proof/Machine/ControlCommands.lean ====
section
/-! DEFINITION. The control commands: NOP and CLEAR. -/

namespace Sys2Proof.Machine

/-- R156: NOP changes nothing, `STATUS` and `ERRCODE` included. -/
def execNop (s : State) : Host.Outcome State Fault Refusal := .next s

/-- R157: CLEAR zeroises every register; it does not report `DONE`. -/
def execClear (s : State) : Host.Outcome State Fault Refusal :=
  .next { s with regs := s.regs.cleared }

end Sys2Proof.Machine
end

