-- ==== Sys2Proof/Machine/FieldCommands.lean ====
section
/-! DEFINITION. The command of the field arithmetic unit: GFMUL. -/

namespace Sys2Proof.Machine

/-- R85: GFMUL multiplies `GFA` by `GFB` into `GFP`; it cannot fail and does not look at `KSIZE`. -/
def execGfmul (s : State) : Host.Outcome State Fault Refusal :=
  let (a, b) := s.regs.fieldOperands
  .next { s with regs := (s.regs.setGfp (mul a b)).succeed }

end Sys2Proof.Machine
end

