-- ==== Sys2Proof/Machine/InvCipher.lean ====
section
/-! DEFINITION. The inverse block cipher (spec/44_decrypt.md R140 to R143, R146). -/

namespace Sys2Proof.Machine

/-- R140: one column of InvMixColumns, the matrix with first row 0E 0B 0D 09 (90_conflicts.md C1), by full
multiplication. -/
def invMixColumn (s : Quad) : Quad :=
  #v[ mul 0x0E s[0] ^^^ mul 0x0B s[1] ^^^ mul 0x0D s[2] ^^^ mul 0x09 s[3],
      mul 0x09 s[0] ^^^ mul 0x0E s[1] ^^^ mul 0x0B s[2] ^^^ mul 0x0D s[3],
      mul 0x0D s[0] ^^^ mul 0x09 s[1] ^^^ mul 0x0E s[2] ^^^ mul 0x0B s[3],
      mul 0x0B s[0] ^^^ mul 0x0D s[1] ^^^ mul 0x09 s[2] ^^^ mul 0x0E s[3] ]

/-- R140: InvMixColumns. -/
def invMixColumns (st : Block) : Block := onColumns invMixColumn st

/-- R141, R146: a full inverse round `d`, with round key `rounds - 1 - d`; the key-mix comes before the
inverse diffusion. -/
def inverseRound (w : List Byte) (ks : KeySize) (st : Block) (d : Nat) : Block :=
  invMixColumns (addRoundKey (invSubBytes (invShiftRows st)) w (ks.rounds - 1 - d))

/-- R142: the final inverse round, with round key 0 and without inverse diffusion. -/
def inverseFinalRound (w : List Byte) (st : Block) : Block :=
  addRoundKey (invSubBytes (invShiftRows st)) w 0

/-- R143 on a round-key sequence `w`: round key `rounds - 1` first, then the full inverse rounds 1 to
`rounds - 2`, then the final one. -/
def inverseCipher (ks : KeySize) (w : List Byte) (block : Block) : Block :=
  inverseFinalRound w
    ((List.range' 1 (ks.rounds - 2)).foldl (inverseRound w ks) (addRoundKey block w (ks.rounds - 1)))

/-- R143: `decrypt(block, key)`. -/
def decrypt (ks : KeySize) (block : Block) (key : List Byte) : Block :=
  inverseCipher ks (expand ks key) block

end Sys2Proof.Machine
end

