-- ==== Sys2Proof/Machine/KeyCommands.lean ====
section
/-! DEFINITION. The commands that use the key: EXPAND, ENCRYPT and DECRYPT. -/

namespace Sys2Proof.Machine

/-- R114: EXPAND runs the key schedule alone and leaves it in the round-key memory. -/
def execExpand (s : State) : Host.Outcome State Fault Refusal :=
  .next { s with regs := s.regs.runKeyCommand fun _ _ r => r }

/-- R131: ENCRYPT encrypts `DIN` under `KEY` into `DOUT`, with the schedule it has just computed. -/
def execEncrypt (s : State) : Host.Outcome State Fault Refusal :=
  .next { s with regs := s.regs.runKeyCommand fun ks w r => r.setDout (cipher ks w r.blockOperand) }

/-- R144: DECRYPT decrypts `DIN` under `KEY` into `DOUT`; `RK` keeps the schedule in encryption order. -/
def execDecrypt (s : State) : Host.Outcome State Fault Refusal :=
  .next { s with regs := s.regs.runKeyCommand fun ks w r => r.setDout (inverseCipher ks w r.blockOperand) }

end Sys2Proof.Machine
end

