-- ==== Sys2Proof/Machine/Dispatch.lean ====
section
/-! DEFINITION. One arm per command (spec/45_control.md R155). -/

namespace Sys2Proof.Machine

def exec (i : Instr) (s : State) : Host.Outcome State Fault Refusal :=
  match i with
  | .nop => Sys2Proof.Machine.execNop s
  | .expand => Sys2Proof.Machine.execExpand s
  | .encrypt => Sys2Proof.Machine.execEncrypt s
  | .decrypt => Sys2Proof.Machine.execDecrypt s
  | .gfmul => Sys2Proof.Machine.execGfmul s
  | .clear => Sys2Proof.Machine.execClear s

end Sys2Proof.Machine
end

