-- ==== Sys2Proof/Machine/Fetch.lean ====
section
/-! DEFINITION. Taking the next host event (spec/00_scope.md R6; spec/20_memory.md R44, R45, R49;
spec/45_control.md R155, R158; spec/70_reset_and_hazards.md R185). The core has no program counter and
fetches no program (R30): what it runs next is what the host does next. -/

namespace Sys2Proof.Machine

/-- What taking the next host event comes to. -/
inductive Fetched where
  /-- The state is already the one after the event (or there was no event). -/
  | done (s : State)
  /-- The event wrote a defined command code to `CMD`: run the command on this state, which the event has
  left the queue of. -/
  | command (i : Instr) (s : State)
  deriving DecidableEq, Repr

/-- R155: a write of `c` to `CMD`. A defined code runs its command; any other raises IllegalCommand (R158).
The byte is not stored (R23). -/
def commandWrite (s : State) (c : Byte) : Fetched :=
  match decode c with
  | .ok i => .command i s
  | .error (.illegalCode _) => .done { s with regs := s.regs.raise .illegalCommand }

/-- The effect of one host event on a state it has already left the queue of (R6). -/
def performEvent (e : HostEvent) (s : State) : Fetched :=
  match e with
  | .reset => .done { s with regs := Regs.reset }
  | .read a => .done { s with replies := s.replies ++ [s.regs.readByte a] }
  | .write a v =>
    if regAt a = some .cmd then commandWrite s v
    else .done { s with regs := s.regs.writeByte a v }

/-- The oldest event that the host has waiting is taken and performed, whole, before the next (R49). With
none waiting the core takes no step of its own (R6). -/
def fetch (s : State) : Fetched :=
  match s.pending with
  | [] => .done s
  | e :: rest => performEvent e { s with pending := rest }

end Sys2Proof.Machine
end

