-- ==== Sys2Proof/Machine/Step.lean ====
section
/-! DEFINITION. One step of the machine: the next host event, performed whole (spec/00_scope.md R6). -/

namespace Sys2Proof.Machine

/-- R6, R155: take the next host event and, where it is a command, run the command to completion. -/
def step (s : State) : Host.Outcome State Fault Refusal :=
  match fetch s with
  | .done t => .next t
  | .command i t => exec i t

/-- `s` with the write of the command byte `w` to `CMD` as the very next host event: that is what brings a
command to run on this hardware (R155). Every command is one byte (R69), so `nbits` is 8. -/
def State.withFetchWord (s : State) (_nbits w : Nat) : State :=
  { s with pending := .write cmdAddr (BitVec.ofNat 8 w) :: s.pending }

end Sys2Proof.Machine
end

