-- ==== Sys2Proof/Machine/RegisterSpace.lean ====
section
/-! DEFINITION. The whole register space as the host reads it, as one canonical list of address and byte
pairs (spec/20_memory.md R40, R41, R44). The registers are the one home of every byte; this list is a view
of them (notes/assumptions/2.md). -/

namespace Sys2Proof.Machine

/-- Bytes by address. An unlisted address reads 0x00, as an unassigned one does (R44). -/
abbrev Memory := List Host.Cell

/-- What an unlisted address reads as (R44). -/
def Memory.unlisted : Byte := 0x00

/-- The byte at an address. -/
def Memory.read (m : Memory) (n : Nat) : Byte :=
  match m.find? (fun c => c.1 == n) with
  | some c => c.2
  | none => Memory.unlisted

/-- The canonical form: addresses strictly rising and below 512 (R40), no entry equal to what an unlisted
address reads as. -/
abbrev Memory.wf (m : Memory) : Prop :=
  m.Pairwise (fun c d => c.1 < d.1) ∧ ∀ c ∈ m, c.1 < 512 ∧ c.2 ≠ Memory.unlisted

/-- The cell at address `n` of the space, where it reads other than an unlisted address does. -/
def Regs.cellAt (r : Regs) (n : Nat) : Option Host.Cell :=
  let v := r.readByte (BitVec.ofNat 9 n)
  if v = Memory.unlisted then none else some (n, v)

/-- The 512 locations of the register space (R40). -/
def Regs.space (r : Regs) : Memory := (List.range 512).filterMap r.cellAt

end Sys2Proof.Machine
end

