-- ==== Sys2Proof/Machine/Sequencer.lean ====
section
/-! DEFINITION. The sequencer's control flow as data (spec/43_encrypt.md R133; spec/44_decrypt.md R146;
spec/42_key_schedule.md R116): which steps run, how often and in which order, as lists that depend on the
key size alone. The commands do not read these lists; statements prove the ciphers equal to running them. -/

namespace Sys2Proof.Machine

/-- One step of a block transform (R132). -/
inductive RoundStep where
  | addRoundKey (r : Nat)
  | subBytes
  | shiftRows
  | mixColumns
  | invSubBytes
  | invShiftRows
  | invMixColumns
  deriving DecidableEq, Repr

/-- What a step does to the working state, given the round-key sequence. -/
def applyRoundStep (w : List Byte) (st : Block) (x : RoundStep) : Block :=
  match x with
  | .addRoundKey r => addRoundKey st w r
  | .subBytes => subBytes st
  | .shiftRows => shiftRows st
  | .mixColumns => mixColumns st
  | .invSubBytes => invSubBytes st
  | .invShiftRows => invShiftRows st
  | .invMixColumns => invMixColumns st

/-- The steps of the forward cipher in order (R128 to R130). -/
def forwardSteps (ks : KeySize) : List RoundStep :=
  .addRoundKey 0 ::
    ((List.range' 1 (ks.rounds - 2)).flatMap fun r => [.subBytes, .shiftRows, .mixColumns, .addRoundKey r]) ++
    [.subBytes, .shiftRows, .addRoundKey (ks.rounds - 1)]

/-- The steps of the inverse cipher in order (R141 to R143). -/
def inverseSteps (ks : KeySize) : List RoundStep :=
  .addRoundKey (ks.rounds - 1) ::
    ((List.range' 1 (ks.rounds - 2)).flatMap fun d =>
      [.invShiftRows, .invSubBytes, .addRoundKey (ks.rounds - 1 - d), .invMixColumns]) ++
    [.invShiftRows, .invSubBytes, .addRoundKey 0]

/-- The round keys a list of steps uses, in order. -/
def roundKeysUsed (steps : List RoundStep) : List Nat :=
  steps.filterMap fun x => match x with
    | .addRoundKey r => some r
    | _ => none

/-- What the key schedule does to the previous word before it is XORed in (R109, R110). -/
inductive WordStep where
  /-- The core transform, application `j` (R108). -/
  | core (j : Nat)
  /-- The extra substitution of 32-byte keys (R110). -/
  | substitute
  /-- The word as it stands. -/
  | plain
  deriving DecidableEq, Repr

/-- What a word step makes of the previous word, with the round constant as an argument. -/
def applyWordStep (rc : Nat → Byte) (x : WordStep) (t : Quad) : Quad :=
  match x with
  | .core j => keyCoreWith (rc j) t
  | .substitute => subWord t
  | .plain => t

/-- The word step at word index `i` (R117): `f` as a function of `i` and `Nk = KS / 4`. -/
def wordStepAt (ks : KeySize) (i : Nat) : WordStep :=
  let nk := ks.bytes / 4
  if i % nk = 0 then .core (i / nk)
  else if nk = 8 ∧ i % 8 = 4 then .substitute
  else .plain

/-- The word steps of one expansion in order: one for every word after the seed (R111, R116). -/
def wordSteps (ks : KeySize) : List WordStep :=
  (List.range' (ks.bytes / 4) (4 * ks.rounds - ks.bytes / 4)).map (wordStepAt ks)

/-- The indices of the applications of the core transform in a list of word steps, in order (R116). -/
def coreIndices (steps : List WordStep) : List Nat :=
  steps.filterMap fun x => match x with
    | .core j => some j
    | .substitute => none
    | .plain => none

/-- The bytes produced so far with the next four appended (R109), for a given word step. -/
def appendWord (rc : Nat → Byte) (ks : KeySize) (w : List Byte) (x : WordStep) : List Byte :=
  w ++ (xorQuad (wordAt w (w.length - ks.bytes)) (applyWordStep rc x (wordAt w (w.length - 4)))).toList

end Sys2Proof.Machine
end

