-- ==== Sys2Proof/Safety.lean ====
section
/-! DEFINITION. What claims are stated in terms of: the invariant of the state (spec/10_state.md R29), a
valid key size, and a rejected command (spec/92_eei_decisions.md, modelling advice). -/

namespace Sys2Proof.Machine

/-- R14, R63: the byte is one of the three valid key sizes. -/
def ValidKeySize (b : Byte) : Prop := b.toNat = 16 ∨ b.toNat = 24 ∨ b.toNat = 32

/-- A command was rejected: `STATUS.ERR` is 1 (92_eei_decisions.md: "faulted"). It is a state, not a stop. -/
def Rejected (s : State) : Prop := s.regs.errFlag = true

/-- `RK` and `ROUNDS` hold the schedule of some key of a valid size, zero after it (R29 (c)). -/
def Regs.HoldsSchedule (r : Regs) : Prop :=
  ∃ (ks : KeySize) (key : List Byte), key.length = ks.bytes ∧
    r.rounds = BitVec.ofNat 8 ks.rounds ∧ r.rk = scheduleMemory ks (expand ks key)

/-- R29: the invariant of every state reachable from reset by host events, clause by clause. -/
structure Regs.Inv (r : Regs) : Prop where
  /-- R29 (a). -/
  lengths : r.rklen.toNat = 16 * r.rounds.toNat ∧
    (r.rounds = 0 ∨ r.rounds = 11 ∨ r.rounds = 13 ∨ r.rounds = 15)
  /-- R29 (b). -/
  empty : r.rounds = 0 → r.rk = Vector.replicate 240 0x00
  /-- R29 (c). -/
  held : r.rounds ≠ 0 → r.HoldsSchedule
  /-- R29 (d). -/
  status : r.status = 0x00 ∨ r.status = 0x01 ∨ r.status = 0x02
  /-- R29 (e). -/
  errcode : (r.status ≠ 0x02 → r.errcode = 0x00) ∧
    (r.status = 0x02 → r.errcode = 0x01 ∨ r.errcode = 0x02)

/-- The invariant of the machine: that of its registers (R29). -/
def State.Inv (s : State) : Prop := s.regs.Inv

end Sys2Proof.Machine
end

