-- ==== Sys2Proof/Certificates/Slice0/Obligations.lean ====
section
/-! DEFINITION. The statements for the provers, from the numbered rules of spec/. -/

open Sys2Proof Sys2Proof.Machine

/-! ## Encoding and dispatch -/

/-- R61: the six command codes, compared in all eight bits, and no other. -/
def Obligations.CommandBytesDecodeAsTheTableSays : Prop :=
  decode 0x00 = .ok .nop ∧ decode 0x01 = .ok .expand ∧ decode 0x02 = .ok .encrypt ∧
  decode 0x03 = .ok .decrypt ∧ decode 0x04 = .ok .gfmul ∧ decode 0x05 = .ok .clear ∧
  ∀ c : Byte, 6 ≤ c.toNat → decode c = .error (.illegalCode c)

/-- Decoding an encoded command gives it back, and a byte that decodes is that command's code (R60, R61). -/
def Obligations.EncodingAndDecodingAgree : Prop :=
  (∀ i : Instr, decode (encode i) = .ok i) ∧ ∀ (c : Byte) (i : Instr), decode c = .ok i → encode i = c

/-- R155: a host write of `c` to `CMD` runs command `c` as part of that same event, on the registers as they
are at the event; any other code raises IllegalCommand. -/
def Obligations.WriteToCmdRunsTheCommand : Prop :=
  ∀ (s : State) (c : Byte) (rest : List HostEvent), s.pending = .write 0x000 c :: rest →
    (c = 0x00 → step s = exec .nop { s with pending := rest }) ∧
    (c = 0x01 → step s = exec .expand { s with pending := rest }) ∧
    (c = 0x02 → step s = exec .encrypt { s with pending := rest }) ∧
    (c = 0x03 → step s = exec .decrypt { s with pending := rest }) ∧
    (c = 0x04 → step s = exec .gfmul { s with pending := rest }) ∧
    (c = 0x05 → step s = exec .clear { s with pending := rest }) ∧
    (6 ≤ c.toNat → step s = .next { s with pending := rest, regs := s.regs.raise .illegalCommand })

/-- A step runs the decoded command: where the oldest host event writes to `CMD` a byte that decodes to a
well-formed command, the step is `exec` of it on the state with that event taken from the queue (the queue is
the model's own field, notes/assumptions/1.md). -/
def Obligations.StepRunsTheDecodedCommand : Prop :=
  ∀ (s : State) (c : Byte) (i : Instr) (rest : List HostEvent), s.pending = .write 0x000 c :: rest →
    decode c = .ok i → i.wellFormed = true → step s = exec i { s with pending := rest }

/-- What the host's check places is what the next step runs (`withFetchWord`, notes/assumptions/5.md). -/
def Obligations.PlacedCommandRunsNext : Prop :=
  ∀ (s : State) (w : Nat) (i : Instr), decodeTableWord 8 w = some i →
    step (s.withFetchWord 8 w) = exec i s

/-- R158: an illegal code sets `STATUS` and `ERRCODE` to 0x02 and changes no other byte of state. -/
def Obligations.IllegalCodeChangesOnlyTheStatusBytes : Prop :=
  ∀ (s : State) (c : Byte) (rest : List HostEvent), s.pending = .write 0x000 c :: rest → 6 ≤ c.toNat →
    step s = .next { s with pending := rest, regs := { s.regs with status := 0x02, errcode := 0x02 } }

/-- R167: IllegalCommand is raised by a `CMD` write of 0x06 to 0xFF, and by nothing else. -/
def Obligations.OnlyIllegalCodesRaiseIllegalCommand : Prop :=
  ∀ s t : State, step s = .next t →
    ((∃ (c : Byte) (rest : List HostEvent), s.pending = .write 0x000 c :: rest ∧ 6 ≤ c.toNat) →
      t.regs.status = 0x02 ∧ t.regs.errcode = 0x02) ∧
    (t.regs.errcode = 0x02 → s.regs.errcode ≠ 0x02 →
      ∃ (c : Byte) (rest : List HostEvent), s.pending = .write 0x000 c :: rest ∧ 6 ≤ c.toNat)

/-! ## Host events -/

/-- R6: between host events the core takes no step of its own. That a step without an event answers the same
state is the model's form of it (notes/assumptions/1.md). -/
def Obligations.CoreIsIdleWithoutEvents : Prop :=
  ∀ s : State, s.pending = [] → step s = .next s

/-- R171 and 93_implementation_defined.md: no host event stops the core; every step answers a next state. -/
def Obligations.EveryStepAnswersANextState : Prop :=
  ∀ s : State, ∃ t : State, step s = .next t

/-- R32: after the `Reset` event every byte of architectural state is zero. -/
def Obligations.ResetEventZeroesEveryRegister : Prop :=
  ∀ (s : State) (rest : List HostEvent), s.pending = .reset :: rest →
    step s = .next
      { pending := rest, replies := s.replies,
        regs :=
          { key := Vector.replicate 32 0x00, ksize := 0x00, din := Vector.replicate 16 0x00,
            gfa := 0x00, gfb := 0x00, dout := Vector.replicate 16 0x00, gfp := 0x00,
            rk := Vector.replicate 240 0x00, rounds := 0x00, rklen := 0x00,
            status := 0x00, errcode := 0x00 } }

/-- R186: `Reset` and CLEAR produce the same state, which is that of a machine right after reset. -/
def Obligations.ClearAndResetGiveTheSameRegisters : Prop :=
  ∀ (s t : State) (rest : List HostEvent), s.pending = .reset :: rest → step s = .next t →
    exec .clear { s with pending := rest } = .next t ∧ t.regs = State.reset.regs

/-- R44: what a read of each address returns; a read changes no register. -/
def Obligations.ReadReturnsTheRegisterAtTheAddress : Prop :=
  ∀ (s : State) (a : Addr) (rest : List HostEvent), s.pending = .read a :: rest →
    ∃ b : Byte, step s = .next { s with pending := rest, replies := s.replies ++ [b] } ∧
      (a = 0x000 → b = 0x00) ∧
      (a = 0x001 → b = s.regs.status) ∧
      (a = 0x002 → b = s.regs.ksize) ∧
      (a = 0x003 → b = s.regs.errcode) ∧
      (a = 0x004 → b = s.regs.rounds) ∧
      (a = 0x005 → b = s.regs.rklen) ∧
      (a = 0x006 → b = s.regs.gfa) ∧
      (a = 0x007 → b = s.regs.gfb) ∧
      (a = 0x008 → b = s.regs.gfp) ∧
      (∀ i : Fin 16, a = BitVec.ofNat 9 (0x010 + i.val) → b = s.regs.din[i.val]) ∧
      (∀ i : Fin 16, a = BitVec.ofNat 9 (0x020 + i.val) → b = s.regs.dout[i.val]) ∧
      (∀ i : Fin 32, a = BitVec.ofNat 9 (0x040 + i.val) → b = s.regs.key[i.val]) ∧
      (∀ i : Fin 240, a = BitVec.ofNat 9 (0x100 + i.val) → b = s.regs.rk[i.val]) ∧
      ((0x009 ≤ a.toNat ∧ a.toNat ≤ 0x00F) ∨ (0x030 ≤ a.toNat ∧ a.toNat ≤ 0x03F) ∨
        (0x060 ≤ a.toNat ∧ a.toNat ≤ 0x0FF) ∨ 0x1F0 ≤ a.toNat → b = 0x00)

/-- R45: a write to `CMD` runs a command, a write to a host-writable register sets it and changes nothing
else, and a write to a read-only register or an unassigned address does nothing at all. -/
def Obligations.WriteSetsOnlyTheRegisterAtTheAddress : Prop :=
  ∀ (s : State) (a : Addr) (v : Byte) (rest : List HostEvent), s.pending = .write a v :: rest →
    (a = 0x000 → ∀ i : Instr, decode v = .ok i → step s = exec i { s with pending := rest }) ∧
    (a = 0x000 → 6 ≤ v.toNat →
      step s = .next { s with pending := rest, regs := s.regs.raise .illegalCommand }) ∧
    (a = 0x002 → step s = .next { s with pending := rest, regs := { s.regs with ksize := v } }) ∧
    (a = 0x006 → step s = .next { s with pending := rest, regs := { s.regs with gfa := v } }) ∧
    (a = 0x007 → step s = .next { s with pending := rest, regs := { s.regs with gfb := v } }) ∧
    (∀ i : Fin 16, a = BitVec.ofNat 9 (0x010 + i.val) →
      step s = .next { s with pending := rest, regs := { s.regs with din := s.regs.din.set i.val v } }) ∧
    (∀ i : Fin 32, a = BitVec.ofNat 9 (0x040 + i.val) →
      step s = .next { s with pending := rest, regs := { s.regs with key := s.regs.key.set i.val v } }) ∧
    (a.toNat = 0x001 ∨ (0x003 ≤ a.toNat ∧ a.toNat ≤ 0x005) ∨ (0x008 ≤ a.toNat ∧ a.toNat ≤ 0x00F) ∨
      (0x020 ≤ a.toNat ∧ a.toNat ≤ 0x03F) ∨ 0x060 ≤ a.toNat →
      step s = .next { s with pending := rest })

/-- R41: the address of every location of the register space, what the host may do there, and the addresses
that are unassigned. -/
def Obligations.RegisterMapIsTheSpecifiedOne : Prop :=
  regAt 0x000 = some .cmd ∧ regAt 0x001 = some .status ∧ regAt 0x002 = some .ksize ∧
  regAt 0x003 = some .errcode ∧ regAt 0x004 = some .rounds ∧ regAt 0x005 = some .rklen ∧
  regAt 0x006 = some .gfa ∧ regAt 0x007 = some .gfb ∧ regAt 0x008 = some .gfp ∧
  (∀ i : Fin 16, regAt (BitVec.ofNat 9 (0x010 + i.val)) = some (.din i)) ∧
  (∀ i : Fin 16, regAt (BitVec.ofNat 9 (0x020 + i.val)) = some (.dout i)) ∧
  (∀ i : Fin 32, regAt (BitVec.ofNat 9 (0x040 + i.val)) = some (.key i)) ∧
  (∀ i : Fin 240, regAt (BitVec.ofNat 9 (0x100 + i.val)) = some (.rk i)) ∧
  (∀ a : Addr, regAt a = none ↔ (0x009 ≤ a.toNat ∧ a.toNat ≤ 0x00F) ∨ (0x030 ≤ a.toNat ∧ a.toNat ≤ 0x03F) ∨
    (0x060 ≤ a.toNat ∧ a.toNat ≤ 0x0FF) ∨ 0x1F0 ≤ a.toNat) ∧
  (∀ loc : Reg, loc.hostReadable = true ↔ loc ≠ .cmd) ∧
  (∀ loc : Reg, loc.hostWritable = true ↔
    loc = .cmd ∨ loc = .ksize ∨ loc = .gfa ∨ loc = .gfb ∨ (∃ i, loc = .din i) ∨ ∃ i, loc = .key i)

/-- R49: a read returns what the latest write left there, and a write leaves every other address alone. -/
def Obligations.WrittenByteReadsBack : Prop :=
  ∀ (r : Regs) (a : Addr) (v : Byte),
    ((∃ loc, regAt a = some loc ∧ loc.hostWritable = true ∧ loc ≠ .cmd) → (r.writeByte a v).readByte a = v) ∧
    ∀ b : Addr, b ≠ a → (r.writeByte a v).readByte b = r.readByte b

/-- R68: any order of the operand writes gives the same registers. -/
def Obligations.OperandWritesCommute : Prop :=
  ∀ (r : Regs) (a b : Addr) (v w : Byte), a ≠ b →
    (r.writeByte a v).writeByte b w = (r.writeByte b w).writeByte a v

/-- R28, R41: there is no hidden state. Two cores that read alike at every address hold the same registers. -/
def Obligations.RegisterSpaceShowsAllState : Prop :=
  ∀ r r' : Regs, (∀ a : Addr, r.readByte a = r'.readByte a) → r = r'

/-! ## What each command does -/

/-- R156: NOP does nothing. -/
def Obligations.NopChangesNothing : Prop := ∀ s : State, exec .nop s = .next s

/-- R114: EXPAND, with a valid key size and with an invalid one. -/
def Obligations.ExpandStoresTheSchedule : Prop :=
  ∀ s : State,
    (∀ ks : KeySize, s.regs.ksize.toNat = ks.bytes →
      exec .expand s = .next { s with regs := { s.regs with
        rk := Vector.ofFn fun i : Fin 240 =>
          if i.val < ks.sched then (expand ks (s.regs.key.toList.take ks.bytes)).getD i.val 0x00 else 0x00
        rounds := BitVec.ofNat 8 ks.rounds
        rklen := BitVec.ofNat 8 ks.sched
        status := 0x01
        errcode := 0x00 } }) ∧
    (¬ ValidKeySize s.regs.ksize →
      exec .expand s = .next { s with regs := { s.regs with status := 0x02, errcode := 0x01 } })

/-- R131: ENCRYPT, with a valid key size and with an invalid one. -/
def Obligations.EncryptWritesTheCiphertext : Prop :=
  ∀ s : State,
    (∀ ks : KeySize, s.regs.ksize.toNat = ks.bytes →
      exec .encrypt s = .next { s with regs := { s.regs with
        rk := Vector.ofFn fun i : Fin 240 =>
          if i.val < ks.sched then (expand ks (s.regs.key.toList.take ks.bytes)).getD i.val 0x00 else 0x00
        rounds := BitVec.ofNat 8 ks.rounds
        rklen := BitVec.ofNat 8 ks.sched
        dout := encrypt ks s.regs.din (s.regs.key.toList.take ks.bytes)
        status := 0x01
        errcode := 0x00 } }) ∧
    (¬ ValidKeySize s.regs.ksize →
      exec .encrypt s = .next { s with regs := { s.regs with status := 0x02, errcode := 0x01 } })

/-- R144: DECRYPT, with a valid key size and with an invalid one. -/
def Obligations.DecryptWritesThePlaintext : Prop :=
  ∀ s : State,
    (∀ ks : KeySize, s.regs.ksize.toNat = ks.bytes →
      exec .decrypt s = .next { s with regs := { s.regs with
        rk := Vector.ofFn fun i : Fin 240 =>
          if i.val < ks.sched then (expand ks (s.regs.key.toList.take ks.bytes)).getD i.val 0x00 else 0x00
        rounds := BitVec.ofNat 8 ks.rounds
        rklen := BitVec.ofNat 8 ks.sched
        dout := decrypt ks s.regs.din (s.regs.key.toList.take ks.bytes)
        status := 0x01
        errcode := 0x00 } }) ∧
    (¬ ValidKeySize s.regs.ksize →
      exec .decrypt s = .next { s with regs := { s.regs with status := 0x02, errcode := 0x01 } })

/-- R85: GFMUL. -/
def Obligations.GfmulWritesTheProduct : Prop :=
  ∀ s : State, exec .gfmul s = .next { s with regs := { s.regs with
    gfp := mul s.regs.gfa s.regs.gfb, status := 0x01, errcode := 0x00 } }

/-- R157: CLEAR. -/
def Obligations.ClearZeroesEveryRegister : Prop :=
  ∀ s : State, exec .clear s = .next { s with
    regs :=
      { key := Vector.replicate 32 0x00, ksize := 0x00, din := Vector.replicate 16 0x00,
        dout := Vector.replicate 16 0x00, gfa := 0x00, gfb := 0x00, gfp := 0x00,
        rk := Vector.replicate 240 0x00, rounds := 0x00, rklen := 0x00,
        status := 0x00, errcode := 0x00 } }

/-! ## Errors, flags and frames -/

/-- R170: `raise E` writes `STATUS` and `ERRCODE` and nothing else. -/
def Obligations.RaiseRecordsTheErrorAndNothingElse : Prop :=
  ∀ r : Regs,
    r.raise .invalidKeySize = { r with status := 0x02, errcode := 0x01 } ∧
    r.raise .illegalCommand = { r with status := 0x02, errcode := 0x02 }

/-- R166: who raises InvalidKeySize and when; NOP, GFMUL and CLEAR never look at `KSIZE`; a write to `KSIZE`
does not raise it. -/
def Obligations.InvalidKeySizeIsRaisedByKeyCommandsOnly : Prop :=
  (∀ (s : State) (i : Instr), i = .expand ∨ i = .encrypt ∨ i = .decrypt → ¬ ValidKeySize s.regs.ksize →
    exec i s = .next { s with regs := { s.regs with status := 0x02, errcode := 0x01 } }) ∧
  (∀ (s t : State) (i : Instr), exec i s = .next t → t.regs.errcode = 0x01 → s.regs.errcode ≠ 0x01 →
    (i = .expand ∨ i = .encrypt ∨ i = .decrypt) ∧ ¬ ValidKeySize s.regs.ksize) ∧
  (∀ (s t : State) (i : Instr) (v : Byte), i = .nop ∨ i = .gfmul → exec i s = .next t →
    exec i { s with regs := { s.regs with ksize := v } } =
      .next { t with regs := { t.regs with ksize := v } }) ∧
  (∀ (s : State) (v : Byte),
    exec .clear { s with regs := { s.regs with ksize := v } } = exec .clear s) ∧
  (∀ (s : State) (v : Byte) (rest : List HostEvent), s.pending = .write 0x002 v :: rest →
    step s = .next { s with pending := rest, regs := { s.regs with ksize := v } })

/-- R160: a command other than NOP and CLEAR that completes without error (GFMUL, and a key command with a
valid size) ends with `STATUS` = 0x01 and `ERRCODE` = 0x00, whatever they held before. -/
def Obligations.SuccessClearsTheErrorIndication : Prop :=
  ∀ (s t : State) (i : Instr), i ≠ .nop → i ≠ .clear → exec i s = .next t →
    (i = .gfmul ∨ ValidKeySize s.regs.ksize) → t.regs.status = 0x01 ∧ t.regs.errcode = 0x00

/-- R13: no command but CLEAR writes an operand register. -/
def Obligations.CommandsLeaveTheOperands : Prop :=
  ∀ (s t : State) (i : Instr), i ≠ .clear → exec i s = .next t →
    t.regs.key = s.regs.key ∧ t.regs.ksize = s.regs.ksize ∧ t.regs.din = s.regs.din ∧
    t.regs.gfa = s.regs.gfa ∧ t.regs.gfb = s.regs.gfb

/-- R18: GFMUL leaves the product in `GFP`, no other command but CLEAR writes it, and the host cannot. -/
def Obligations.OnlyGfmulAndClearWriteGfp : Prop :=
  (∀ s t : State, exec .gfmul s = .next t → t.regs.gfp = mul s.regs.gfa s.regs.gfb) ∧
  (∀ (s t : State) (i : Instr), i ≠ .gfmul → i ≠ .clear → exec i s = .next t → t.regs.gfp = s.regs.gfp) ∧
  ∀ (r : Regs) (v : Byte), r.readByte 0x008 = r.gfp ∧ r.writeByte 0x008 v = r

/-- The frame of every command, byte by byte (R66): outside the registers that the command writes, every
address reads as before; the host's side of the port is untouched. CLEAR writes every register. -/
def Obligations.CommandsChangeOnlyTheirResults : Prop :=
  ∀ (s t : State) (i : Instr), exec i s = .next t →
    t.pending = s.pending ∧ t.replies = s.replies ∧
    ∀ a : Addr,
      (i = .nop → t.regs.readByte a = s.regs.readByte a) ∧
      (i = .gfmul → a ≠ 0x001 → a ≠ 0x003 → a ≠ 0x008 → t.regs.readByte a = s.regs.readByte a) ∧
      (i = .expand → a ≠ 0x001 → ¬ (0x003 ≤ a.toNat ∧ a.toNat ≤ 0x005) →
        ¬ (0x100 ≤ a.toNat ∧ a.toNat ≤ 0x1EF) → t.regs.readByte a = s.regs.readByte a) ∧
      (i = .encrypt ∨ i = .decrypt → a ≠ 0x001 → ¬ (0x003 ≤ a.toNat ∧ a.toNat ≤ 0x005) →
        ¬ (0x020 ≤ a.toNat ∧ a.toNat ≤ 0x02F) →
        ¬ (0x100 ≤ a.toNat ∧ a.toNat ≤ 0x1EF) → t.regs.readByte a = s.regs.readByte a) ∧
      (i = .clear → t.regs.readByte a = 0x00)

/-- R12: bytes `KEY[KSIZE..31]` never influence any result. Two states that differ in them alone go, under
every command, to states that differ in `KEY` alone. -/
def Obligations.KeyTailNeverInfluencesAResult : Prop :=
  ∀ (s s' t t' : State) (i : Instr),
    s'.regs = { s.regs with key := s'.regs.key } →
    (∀ (k : Nat) (h : k < 32), k < s.regs.ksize.toNat → s'.regs.key[k] = s.regs.key[k]) →
    exec i s = .next t → exec i s' = .next t' → t'.regs = { t.regs with key := t'.regs.key }

/-- R115: the key commands compute the schedule afresh from `KEY` and `KSIZE`; whatever the other registers
hold from earlier commands, their results are the same. -/
def Obligations.KeyCommandsNeverUseAStoredSchedule : Prop :=
  ∀ (s s' t t' : State) (i : Instr), i = .expand ∨ i = .encrypt ∨ i = .decrypt →
    s'.regs.key = s.regs.key → s'.regs.ksize = s.regs.ksize → s'.regs.din = s.regs.din →
    ValidKeySize s.regs.ksize → exec i s = .next t → exec i s' = .next t' →
    t'.regs.rk = t.regs.rk ∧ t'.regs.rounds = t.regs.rounds ∧ t'.regs.rklen = t.regs.rklen ∧
    (i ≠ .expand → t'.regs.dout = t.regs.dout) ∧
    t'.regs.status = t.regs.status ∧ t'.regs.errcode = t.regs.errcode

/-- R20, R41: after a successful EXPAND byte `i` of round key `r` is read at 0x100 + 16*r + i, and what lies
behind the last round key reads 0x00. -/
def Obligations.RoundKeysAreReadAtTheirAddresses : Prop :=
  ∀ (s t : State) (ks : KeySize), s.regs.ksize.toNat = ks.bytes → exec .expand s = .next t →
    ∀ r i : Nat, r < 15 → i < 16 →
      t.regs.readByte (BitVec.ofNat 9 (0x100 + 16 * r + i)) =
        if r < ks.rounds then (expand ks (s.regs.key.toList.take ks.bytes)).getD (16 * r + i) 0x00 else 0x00

/-- R116, R133: which functions run inside EXPAND, ENCRYPT and DECRYPT, how often and in which order depends
on `KSIZE` alone. From every state with a valid size the command completes, and its results are those of
running that size's step lists, whatever the key and the block are. The counts are those of R116 and of the
operation table of R190. Nothing is said about time: R190 leaves `LATENCY` open (notes/assumptions/3.md). The
step lists are the model's own form of the control flow (notes/assumptions/14.md). -/
def Obligations.KeyCommandWorkDependsOnKsizeAlone : Prop :=
  ∀ ks : KeySize,
    ((wordSteps ks).length = match ks with | .k16 => 40 | .k24 => 46 | .k32 => 52) ∧
    coreIndices (wordSteps ks) = List.range' 1 (match ks with | .k16 => 10 | .k24 => 8 | .k32 => 7) ∧
    ((wordSteps ks).count .substitute = match ks with | .k16 => 0 | .k24 => 0 | .k32 => 6) ∧
    ((forwardSteps ks).count .mixColumns = match ks with | .k16 => 9 | .k24 => 11 | .k32 => 13) ∧
    ((inverseSteps ks).count .invMixColumns = match ks with | .k16 => 9 | .k24 => 11 | .k32 => 13) ∧
    ∀ s : State, s.regs.ksize.toNat = ks.bytes →
      let w := (wordSteps ks).foldl (appendWord rcon ks) (s.regs.key.toList.take ks.bytes)
      (∃ t : State, exec .expand s = .next t ∧ t.regs.rk = scheduleMemory ks w) ∧
      (∃ t : State, exec .encrypt s = .next t ∧ t.regs.rk = scheduleMemory ks w ∧
        t.regs.dout = (forwardSteps ks).foldl (applyRoundStep w) s.regs.din) ∧
      ∃ t : State, exec .decrypt s = .next t ∧ t.regs.rk = scheduleMemory ks w ∧
        t.regs.dout = (inverseSteps ks).foldl (applyRoundStep w) s.regs.din

/-! ## The invariant of the state -/

/-- The machine right after reset meets the invariant (R29, R32). -/
def Obligations.ResetMeetsTheInvariant : Prop := State.reset.Inv

/-- R29: every step keeps the invariant, from every state that meets it. -/
def Obligations.StepKeepsTheInvariant : Prop :=
  ∀ s t : State, s.Inv → step s = .next t → t.Inv

/-- R29: the invariant holds in every state reachable from reset by host events, whatever the events are. -/
def Obligations.ReachableStatesMeetTheInvariant : Prop :=
  ∀ (script : List HostEvent) (n : Nat) (t : State),
    Sys2Proof.core.run n { State.reset with pending := script } = .next t → t.Inv

/-! ## Field arithmetic -/

/-- R80: `mul` is carry-less polynomial multiplication modulo x^8+x^4+x^3+x+1, where bit `k` of a byte is the
coefficient of x^k (R7). -/
def Obligations.MulIsThePolynomialProduct : Prop :=
  let poly : Byte → Polynomial (ZMod 2) := fun v =>
    ∑ k ∈ Finset.range 8, if v.getLsbD k then Polynomial.X ^ k else 0
  ∀ a b : Byte,
    Polynomial.modByMonic (poly a * poly b)
        (Polynomial.X ^ 8 + Polynomial.X ^ 4 + Polynomial.X ^ 3 + Polynomial.X + 1) =
      poly (mul a b)

/-- R81: the laws of `mul`. -/
def Obligations.MulObeysTheFieldLaws : Prop :=
  (∀ a : Byte, mul a 0x00 = 0x00 ∧ mul a 0x01 = a) ∧
  (∀ a b : Byte, mul a b = mul b a) ∧
  (∀ a b c : Byte, mul a (mul b c) = mul (mul a b) c) ∧
  (∀ a b c : Byte, mul a (b ^^^ c) = mul a b ^^^ mul a c) ∧
  ∀ a : Byte, a ≠ 0x00 → ∃ y : Byte, mul a y = 0x01 ∧ ∀ z : Byte, mul a z = 0x01 → z = y

/-- R82: `xtime` doubles a field element. -/
def Obligations.XtimeIsMultiplicationByTwo : Prop :=
  ∀ x : Byte,
    xtime x = (if x.getLsbD 7 then (x <<< 1) ^^^ 0x1B else x <<< 1) ∧
    xtime x = mul x 0x02 ∧ xtime x = mul 0x02 x

/-- R86: multiplication by the constants of the mix steps in terms of `xtime`. -/
def Obligations.MixConstantsInTermsOfXtime : Prop :=
  ∀ x : Byte,
    mul 0x01 x = x ∧ mul 0x02 x = xtime x ∧ mul 0x03 x = xtime x ^^^ x ∧
    mul 0x09 x = xtime (xtime (xtime x)) ^^^ x ∧
    mul 0x0B x = xtime (xtime (xtime x)) ^^^ xtime x ^^^ x ∧
    mul 0x0D x = xtime (xtime (xtime x)) ^^^ xtime (xtime x) ^^^ x ∧
    mul 0x0E x = xtime (xtime (xtime x)) ^^^ xtime (xtime x) ^^^ xtime x

/-! ## Tables and state functions -/

/-- R92: the S-boxes are inverse to each other; `S` has no fixed point and no opposite fixed point. -/
def Obligations.SboxesAreInverse : Prop :=
  ∀ x : Byte, invSbox (sbox x) = x ∧ sbox (invSbox x) = x ∧ sbox x ≠ x ∧ sbox x ≠ x ^^^ 0xFF

/-- R93: `S` is the affine transform of the multiplicative inverse, with 0 taken for the inverse of 0; the
affine transform bit by bit; `IS` is the inverse of `S`. -/
def Obligations.SboxIsTheAffineTransformOfTheInverse : Prop :=
  sbox 0x00 = affine 0x00 ∧
  (∀ x : Byte, x ≠ 0x00 → ∃ y : Byte, mul x y = 0x01) ∧
  (∀ x y : Byte, mul x y = 0x01 → sbox x = affine y) ∧
  (∀ (b : Byte) (i : Nat), i < 8 → (affine b).getLsbD i =
    (b.getLsbD i ^^ b.getLsbD ((i + 4) % 8) ^^ b.getLsbD ((i + 5) % 8) ^^ b.getLsbD ((i + 6) % 8) ^^
      b.getLsbD ((i + 7) % 8) ^^ (0x63 : Byte).getLsbD i)) ∧
  ∀ y : Byte, sbox (invSbox y) = y

/-- R95, R96, R100: the formulas of the row-shift tables, and the inverse law. -/
def Obligations.RowShiftTablesFollowTheRotation : Prop :=
  ∀ i : Fin 16,
    (shiftTable[i.val]).val = i.val % 4 + 4 * ((i.val / 4 + i.val % 4) % 4) ∧
    (ishiftTable[i.val]).val = i.val % 4 + 4 * ((i.val / 4 + 4 - i.val % 4) % 4) ∧
    ishiftTable[(shiftTable[i.val]).val] = i ∧ shiftTable[(ishiftTable[i.val]).val] = i

/-- The laws of R98, R99 and R125: each state step is undone by its inverse, and the key-mix by itself. -/
def Obligations.StateStepsAreUndoneByTheirInverses : Prop :=
  ∀ st : Block,
    invSubBytes (subBytes st) = st ∧ subBytes (invSubBytes st) = st ∧
    invShiftRows (shiftRows st) = st ∧ shiftRows (invShiftRows st) = st ∧
    ∀ (w : List Byte) (r : Nat), addRoundKey (addRoundKey st w r) w r = st

/-- R101: SubBytes and ShiftRows commute, and so do their inverses. -/
def Obligations.SubstitutionCommutesWithRowShift : Prop :=
  ∀ st : Block, shiftRows (subBytes st) = subBytes (shiftRows st) ∧
    invShiftRows (invSubBytes st) = invSubBytes (invShiftRows st)

/-- R127: the doubling form of MixColumns agrees bit for bit with the four multiplications per byte of R126. -/
def Obligations.DoublingFormIsTheMatrixProduct : Prop :=
  ∀ s : Quad, mixColumn s = mixColumnByMul s

/-- R140: InvMixColumns and MixColumns undo each other on every block. -/
def Obligations.InvMixColumnsInvertsMixColumns : Prop :=
  ∀ st : Block, invMixColumns (mixColumns st) = st ∧ mixColumns (invMixColumns st) = st

/-! ## The key schedule -/

/-- R105: the round constant starts at 1, doubles in the field, and has these ten values. -/
def Obligations.RoundConstantsDouble : Prop :=
  (List.range' 1 10).map rcon = [0x01, 0x02, 0x04, 0x08, 0x10, 0x20, 0x40, 0x80, 0x1B, 0x36] ∧
  ∀ j : Nat, 1 ≤ j → j ≤ 9 → rcon (j + 1) = xtime (rcon j)

/-- R108: KeyCore rotates, substitutes and XORs the round constant into the first byte only. -/
def Obligations.KeyCoreRotatesSubstitutesAndAddsTheConstant : Prop :=
  ∀ (t : Quad) (j : Nat),
    keyCore t j = #v[sbox t[1] ^^^ rcon j, sbox t[2], sbox t[3], sbox t[0]]

/-- R111: the expansion ends at 176, 208 or 240 bytes, a multiple of 16, after (sched - KS) / 4 iterations of
four bytes each, with no byte too many. -/
def Obligations.ExpansionHasTheScheduleLength : Prop :=
  ∀ (ks : KeySize) (key : List Byte), key.length = ks.bytes →
    (expand ks key).length = ks.sched ∧ ks.sched % 16 = 0 ∧
    expandLoop rcon ks ((ks.sched - ks.bytes) / 4) key ks.bytes 1 = expand ks key ∧
    ∀ n : Nat, n ≤ (ks.sched - ks.bytes) / 4 →
      (expandLoop rcon ks n key ks.bytes 1).length = ks.bytes + 4 * n

/-- R109: the first `KS` bytes of the schedule are the key itself. -/
def Obligations.ScheduleBeginsWithTheKey : Prop :=
  ∀ (ks : KeySize) (key : List Byte), key.length = ks.bytes → (expand ks key).take ks.bytes = key

/-- R117: the schedule in word form. -/
def Obligations.ScheduleWordsObeyTheRecurrence : Prop :=
  ∀ (ks : KeySize) (key : List Byte), key.length = ks.bytes →
    ∀ i : Nat, ks.bytes / 4 ≤ i → i < 4 * ks.rounds →
      wordAt (expand ks key) (4 * i) =
        xorQuad (wordAt (expand ks key) (4 * (i - ks.bytes / 4)))
          (if i % (ks.bytes / 4) = 0 then
            keyCore (wordAt (expand ks key) (4 * (i - 1))) (i / (ks.bytes / 4))
          else if ks.bytes / 4 = 8 ∧ i % 8 = 4 then
            subWord (wordAt (expand ks key) (4 * (i - 1)))
          else wordAt (expand ks key) (4 * (i - 1)))

/-- R116: the core transform is applied for the indices 1 to 10, 8 or 7 and no other, each time from 1; so
the schedule depends on no other value of the round constant (in particular on no free one,
notes/assumptions/4.md). -/
def Obligations.RoundConstantIsAskedOnlyInRange : Prop :=
  ∀ (f g : Nat → Byte) (ks : KeySize) (key : List Byte), key.length = ks.bytes →
    (∀ j : Nat, 1 ≤ j → j ≤ (match ks with | .k16 => 10 | .k24 => 8 | .k32 => 7) → f j = g j) →
    expandWith f ks key = expandWith g ks key

/-- The loop of R109 is the list of word steps of R116 and R117 (the model's own form of them,
notes/assumptions/14.md), run in order: the same schedule from two forms of the engine. -/
def Obligations.ExpansionRunsTheWordSteps : Prop :=
  ∀ (rc : Nat → Byte) (ks : KeySize) (key : List Byte), key.length = ks.bytes →
    expandWith rc ks key = (wordSteps ks).foldl (appendWord rc ks) key

/-! ## The ciphers -/

/-- From R133: the sequencer's control flow depends on the key size alone. The ciphers of R130 and R143 are
their lists of round steps (the model's own form, notes/assumptions/14.md), run in order. -/
def Obligations.CiphersRunTheirStepLists : Prop :=
  ∀ (ks : KeySize) (w : List Byte) (block : Block),
    cipher ks w block = (forwardSteps ks).foldl (applyRoundStep w) block ∧
    inverseCipher ks w block = (inverseSteps ks).foldl (applyRoundStep w) block

/-- From R146: the forward list of round steps uses every round key once in ascending order, the inverse list
in descending order. The lists are the model's own form of the control flow (notes/assumptions/14.md); that
the ciphers give what running them gives is `CiphersRunTheirStepLists`. -/
def Obligations.DecryptionUsesTheRoundKeysInReverse : Prop :=
  ∀ ks : KeySize,
    roundKeysUsed (forwardSteps ks) = List.range ks.rounds ∧
    roundKeysUsed (inverseSteps ks) = (List.range ks.rounds).reverse

/-- From R130 and R143: how often each step stands in the lists of round steps (the model's own form,
notes/assumptions/14.md; tied to the ciphers by `CiphersRunTheirStepLists`). -/
def Obligations.RoundStepsRunAsOftenAsSpecified : Prop :=
  ∀ ks : KeySize,
    (forwardSteps ks).count .subBytes = ks.rounds - 1 ∧
    (forwardSteps ks).count .shiftRows = ks.rounds - 1 ∧
    (forwardSteps ks).count .mixColumns = ks.rounds - 2 ∧
    (inverseSteps ks).count .invShiftRows = ks.rounds - 1 ∧
    (inverseSteps ks).count .invSubBytes = ks.rounds - 1 ∧
    (inverseSteps ks).count .invMixColumns = ks.rounds - 2

/-- R145: decryption inverts encryption under every key, and encryption inverts decryption. -/
def Obligations.DecryptionInvertsEncryption : Prop :=
  ∀ (ks : KeySize) (key : List Byte) (block : Block),
    decrypt ks (encrypt ks block key) key = block ∧ encrypt ks (decrypt ks block key) key = block

/-- The round trip at the registers (R131, R144, R145): from every state with a valid key size, ENCRYPT, then
the host's copy of `DOUT` to `DIN`, then DECRYPT give back the block, and `RK` holds the same schedule. -/
def Obligations.EncryptCopyDecryptRestoresTheBlock : Prop :=
  ∀ s : State, ValidKeySize s.regs.ksize →
    ∃ t u : State, exec .encrypt s = .next t ∧
      exec .decrypt { t with regs := { t.regs with din := t.regs.dout } } = .next u ∧
      u.regs.dout = s.regs.din ∧ u.regs.rk = t.regs.rk ∧ u.regs.status = 0x01

/-- R24: what the two flags of `STATUS` report, and who changes them. "Never both 1" and the reserved bits are
said of the states that meet the invariant, which holds at reset and which every step keeps. -/
def Obligations.StatusFlagsReportTheLastCommand : Prop :=
  (∀ s : State, s.Inv →
    ¬ (s.regs.doneFlag = true ∧ s.regs.errFlag = true) ∧ ∀ k : Nat, 2 ≤ k → s.regs.status.getLsbD k = false) ∧
  (State.reset.regs.doneFlag = false ∧ State.reset.regs.errFlag = false) ∧
  (∀ (s t : State) (i : Instr), exec i s = .next t →
    (i = .nop → t.regs.status = s.regs.status) ∧
    (i = .clear → t.regs.doneFlag = false ∧ t.regs.errFlag = false) ∧
    (i = .gfmul → t.regs.doneFlag = true ∧ t.regs.errFlag = false) ∧
    (i = .expand ∨ i = .encrypt ∨ i = .decrypt → ValidKeySize s.regs.ksize →
      t.regs.doneFlag = true ∧ t.regs.errFlag = false) ∧
    (i = .expand ∨ i = .encrypt ∨ i = .decrypt → ¬ ValidKeySize s.regs.ksize →
      t.regs.doneFlag = false ∧ t.regs.errFlag = true)) ∧
  (∀ (s t : State) (c : Byte) (rest : List HostEvent), s.pending = .write 0x000 c :: rest → 6 ≤ c.toNat →
    step s = .next t → t.regs.doneFlag = false ∧ t.regs.errFlag = true) ∧
  (∀ (s t : State) (e : HostEvent) (rest : List HostEvent), s.pending = e :: rest → e ≠ .reset →
    (∀ c : Byte, e ≠ .write 0x000 c) → step s = .next t → t.regs.status = s.regs.status)
end

