-- ==== Sys2Proof/Laws/Datapath.lean ====
section
/-! SUPPORT. Byte `i` of what each datapath function gives, and the unfoldings of the loops. -/

namespace Sys2Proof.Machine

variable (st : Block) (t u : Quad) (w : List Byte)

@[simp] theorem subBytes_getElem (i : Nat) (h : i < 16) : (subBytes st)[i] = sbox st[i] := by
  simp [subBytes]

@[simp] theorem invSubBytes_getElem (i : Nat) (h : i < 16) : (invSubBytes st)[i] = invSbox st[i] := by
  simp [invSubBytes]

@[simp] theorem shiftRows_getElem (i : Nat) (h : i < 16) :
    (shiftRows st)[i] = st[(shiftTable[i]).val] := by
  simp [shiftRows]

@[simp] theorem invShiftRows_getElem (i : Nat) (h : i < 16) :
    (invShiftRows st)[i] = st[(ishiftTable[i]).val] := by
  simp [invShiftRows]

@[simp] theorem addRoundKey_getElem (r i : Nat) (h : i < 16) :
    (addRoundKey st w r)[i] = st[i] ^^^ w.getD (16 * r + i) 0x00 := by
  simp [addRoundKey]

@[simp] theorem column_getElem (c : Fin 4) (k : Nat) (h : k < 4) :
    (column st c)[k] = st[4 * c.val + k]'(by have := c.isLt; omega) := by
  simp [column]

@[simp] theorem onColumns_getElem (f : Quad → Quad) (i : Nat) (h : i < 16) :
    (onColumns f st)[i] = (f (column st ⟨i / 4, by omega⟩))[i % 4]'(by omega) := by
  simp [onColumns]

/-- A column of a block worked on by columns is the function's value on that column (R126, R132). -/
@[simp] theorem column_onColumns (f : Quad → Quad) (c : Fin 4) :
    column (onColumns f st) c = f (column st c) := by
  have hc := c.isLt
  ext k hk : 1
  have h1 : (4 * c.val + k) / 4 = c.val := by omega
  have h2 : (4 * c.val + k) % 4 = k := by omega
  simp [h1, h2]

/-- Working on columns twice is working on each column twice. -/
theorem onColumns_onColumns (f g : Quad → Quad) :
    onColumns f (onColumns g st) = onColumns (fun s => f (g s)) st := by
  ext i hi : 1
  simp

/-- Working on columns with the identity changes nothing. -/
theorem onColumns_id : onColumns (fun s => s) st = st := by
  ext i hi : 1
  have h : 4 * (i / 4) + i % 4 = i := by omega
  simp [h]

@[simp] theorem xorQuad_getElem (k : Nat) (h : k < 4) : (xorQuad t u)[k] = t[k] ^^^ u[k] := by
  simp [xorQuad]

@[simp] theorem subWord_getElem (k : Nat) (h : k < 4) : (subWord t)[k] = sbox t[k] := by
  simp [subWord]

@[simp] theorem wordAt_getElem (n k : Nat) (h : k < 4) : (wordAt w n)[k] = w.getD (n + k) 0x00 := by
  simp [wordAt]

/-- A word that lies inside the bytes produced so far does not see what is appended later. -/
theorem wordAt_append_of_le (v : List Byte) (n : Nat) (h : n + 4 ≤ w.length) :
    wordAt (w ++ v) n = wordAt w n := by
  ext k hk : 1
  simp only [wordAt_getElem]
  rw [List.getD_append _ _ _ _ (by omega)]

/-- The word appended last. -/
theorem wordAt_append_self (q : Quad) : wordAt (w ++ q.toList) w.length = q := by
  ext k hk : 1
  simp only [wordAt_getElem]
  rw [List.getD_append_right _ _ _ _ (by omega)]
  simp [hk]

/-- The word step of one iteration of R109, at offset `n` with index `j`. -/
def iterationStep (ks : KeySize) (n j : Nat) : WordStep :=
  if n % ks.bytes = 0 then .core j
  else if ks = .k32 ∧ n % ks.bytes = 16 then .substitute
  else .plain

/-- The index of the core transform after one iteration of R109. -/
def iterationIndex (ks : KeySize) (n j : Nat) : Nat := if n % ks.bytes = 0 then j + 1 else j

/-- One iteration of R109 while the schedule is not complete, on `n` bytes produced so far. -/
theorem expandLoop_step (rc : Nat → Byte) (ks : KeySize) (fuel n j : Nat) (hw : w.length = n)
    (hn : n < ks.sched) :
    expandLoop rc ks (fuel + 1) w n j =
      expandLoop rc ks fuel (appendWord rc ks w (iterationStep ks n j)) (n + 4) (iterationIndex ks n j) := by
  subst hw
  simp only [expandLoop, if_pos hn, appendWord, iterationStep, iterationIndex]
  by_cases h1 : w.length % ks.bytes = 0
  · simp only [if_pos h1, applyWordStep]
  · by_cases h2 : ks = .k32 ∧ w.length % ks.bytes = 16
    · simp only [if_neg h1, if_pos h2, applyWordStep]
    · simp only [if_neg h1, if_neg h2, applyWordStep]

/-- The loop of R109 ends when the schedule is complete, whatever fuel is left. -/
theorem expandLoop_done (rc : Nat → Byte) (ks : KeySize) (fuel n j : Nat) (hn : ¬ n < ks.sched) :
    expandLoop rc ks fuel w n j = w := by
  cases fuel with
  | zero => rfl
  | succ k => simp only [expandLoop, if_neg hn]

/-- Each iteration appends exactly four bytes (R111). -/
@[simp] theorem length_appendWord (rc : Nat → Byte) (ks : KeySize) (x : WordStep) :
    (appendWord rc ks w x).length = w.length + 4 := by
  simp [appendWord]

end Sys2Proof.Machine
end

