-- ==== Sys2Proof/Laws/Operands.lean ====
section
/-! SUPPORT. The figures of the three key sizes (R4), the key-size check (R113) and the key operand (R12). -/

namespace Sys2Proof

@[simp] theorem KeySize.bytes_k16 : KeySize.k16.bytes = 16 := rfl
@[simp] theorem KeySize.bytes_k24 : KeySize.k24.bytes = 24 := rfl
@[simp] theorem KeySize.bytes_k32 : KeySize.k32.bytes = 32 := rfl
@[simp] theorem KeySize.rounds_k16 : KeySize.k16.rounds = 11 := rfl
@[simp] theorem KeySize.rounds_k24 : KeySize.k24.rounds = 13 := rfl
@[simp] theorem KeySize.rounds_k32 : KeySize.k32.rounds = 15 := rfl
@[simp] theorem KeySize.sched_k16 : KeySize.k16.sched = 176 := rfl
@[simp] theorem KeySize.sched_k24 : KeySize.k24.sched = 208 := rfl
@[simp] theorem KeySize.sched_k32 : KeySize.k32.sched = 240 := rfl

/-- The schedule holds one 16-byte round key per round. -/
theorem KeySize.sched_eq (ks : KeySize) : ks.sched = 16 * ks.rounds := by cases ks <;> rfl

theorem KeySize.bytes_le (ks : KeySize) : ks.bytes ≤ 32 := by cases ks <;> decide

theorem KeySize.sched_le (ks : KeySize) : ks.sched ≤ 240 := by cases ks <;> decide

theorem KeySize.bytes_inj {ks ks' : KeySize} (h : ks.bytes = ks'.bytes) : ks = ks' := by
  cases ks <;> cases ks' <;> simp_all

namespace Machine

/-- The check accepts a byte as a size exactly when the byte is that size's length in bytes. -/
theorem keySizeOf_eq_some_iff {b : Byte} {ks : KeySize} : keySizeOf b = some ks ↔ b.toNat = ks.bytes := by
  have hb : ∀ n : Nat, n < 256 → (b = BitVec.ofNat 8 n ↔ b.toNat = n) := fun n hn => by
    rw [← BitVec.toNat_inj, BitVec.toNat_ofNat, Nat.mod_eq_of_lt hn]
  have h16 := hb 16 (by omega)
  have h24 := hb 24 (by omega)
  have h32 := hb 32 (by omega)
  unfold keySizeOf
  cases ks <;> simp only [KeySize.bytes] <;> split_ifs <;> simp_all

/-- The check refuses every byte that is not one of the three sizes. -/
theorem keySizeOf_eq_none_iff {b : Byte} : keySizeOf b = none ↔ ¬ ValidKeySize b := by
  constructor
  · intro h hv
    rcases hv with hv | hv | hv
    · exact absurd (keySizeOf_eq_some_iff (ks := .k16).mpr hv) (by simp [h])
    · exact absurd (keySizeOf_eq_some_iff (ks := .k24).mpr hv) (by simp [h])
    · exact absurd (keySizeOf_eq_some_iff (ks := .k32).mpr hv) (by simp [h])
  · intro h
    cases hk : keySizeOf b with
    | none => rfl
    | some ks =>
      have := keySizeOf_eq_some_iff.mp hk
      cases ks <;> simp [ValidKeySize, this] at h

/-- A valid size is the length of one of the three key sizes. -/
theorem validKeySize_iff {b : Byte} : ValidKeySize b ↔ ∃ ks : KeySize, b.toNat = ks.bytes := by
  constructor
  · rintro (h | h | h)
    · exact ⟨.k16, h⟩
    · exact ⟨.k24, h⟩
    · exact ⟨.k32, h⟩
  · rintro ⟨ks, h⟩
    cases ks <;> simp [ValidKeySize, h]

@[simp] theorem Regs.length_keyOperand (r : Regs) (ks : KeySize) : (r.keyOperand ks).length = ks.bytes := by
  simp [Regs.keyOperand, ks.bytes_le]

end Machine

end Sys2Proof
end

