-- ==== Sys2Proof/Laws/State.lean ====
section
/-! SUPPORT. What each update of the registers does to each register, one lemma per field per update, and
the same for the three fields of the machine's state. -/

namespace Sys2Proof.Machine

variable (r : Regs) (s : State)

/-! `raise`. R170: only `STATUS` and `ERRCODE` change. -/

@[simp] theorem Regs.raise_key (e : CommandError) : (r.raise e).key = r.key := by
  simp only [Regs.raise]
@[simp] theorem Regs.raise_ksize (e : CommandError) : (r.raise e).ksize = r.ksize := by
  simp only [Regs.raise]
@[simp] theorem Regs.raise_din (e : CommandError) : (r.raise e).din = r.din := by
  simp only [Regs.raise]
@[simp] theorem Regs.raise_gfa (e : CommandError) : (r.raise e).gfa = r.gfa := by
  simp only [Regs.raise]
@[simp] theorem Regs.raise_gfb (e : CommandError) : (r.raise e).gfb = r.gfb := by
  simp only [Regs.raise]
@[simp] theorem Regs.raise_dout (e : CommandError) : (r.raise e).dout = r.dout := by
  simp only [Regs.raise]
@[simp] theorem Regs.raise_gfp (e : CommandError) : (r.raise e).gfp = r.gfp := by
  simp only [Regs.raise]
@[simp] theorem Regs.raise_rk (e : CommandError) : (r.raise e).rk = r.rk := by
  simp only [Regs.raise]
@[simp] theorem Regs.raise_rounds (e : CommandError) : (r.raise e).rounds = r.rounds := by
  simp only [Regs.raise]
@[simp] theorem Regs.raise_rklen (e : CommandError) : (r.raise e).rklen = r.rklen := by
  simp only [Regs.raise]
@[simp] theorem Regs.raise_status (e : CommandError) : (r.raise e).status = statusError := by
  simp only [Regs.raise]
@[simp] theorem Regs.raise_errcode (e : CommandError) : (r.raise e).errcode = e.code := by
  simp only [Regs.raise]

/-! `succeed`. R160: only `STATUS` and `ERRCODE` change. -/

@[simp] theorem Regs.succeed_key : (r.succeed).key = r.key := by
  simp only [Regs.succeed]
@[simp] theorem Regs.succeed_ksize : (r.succeed).ksize = r.ksize := by
  simp only [Regs.succeed]
@[simp] theorem Regs.succeed_din : (r.succeed).din = r.din := by
  simp only [Regs.succeed]
@[simp] theorem Regs.succeed_gfa : (r.succeed).gfa = r.gfa := by
  simp only [Regs.succeed]
@[simp] theorem Regs.succeed_gfb : (r.succeed).gfb = r.gfb := by
  simp only [Regs.succeed]
@[simp] theorem Regs.succeed_dout : (r.succeed).dout = r.dout := by
  simp only [Regs.succeed]
@[simp] theorem Regs.succeed_gfp : (r.succeed).gfp = r.gfp := by
  simp only [Regs.succeed]
@[simp] theorem Regs.succeed_rk : (r.succeed).rk = r.rk := by
  simp only [Regs.succeed]
@[simp] theorem Regs.succeed_rounds : (r.succeed).rounds = r.rounds := by
  simp only [Regs.succeed]
@[simp] theorem Regs.succeed_rklen : (r.succeed).rklen = r.rklen := by
  simp only [Regs.succeed]
@[simp] theorem Regs.succeed_status : (r.succeed).status = statusSuccess := by
  simp only [Regs.succeed]
@[simp] theorem Regs.succeed_errcode : (r.succeed).errcode = noError := by
  simp only [Regs.succeed]

/-! `storeSchedule`. R114: only `RK`, `ROUNDS` and `RKLEN` change. -/

@[simp] theorem Regs.storeSchedule_key (ks : KeySize) (w : List Byte) : (r.storeSchedule ks w).key = r.key := by
  simp only [Regs.storeSchedule]
@[simp] theorem Regs.storeSchedule_ksize (ks : KeySize) (w : List Byte) : (r.storeSchedule ks w).ksize = r.ksize := by
  simp only [Regs.storeSchedule]
@[simp] theorem Regs.storeSchedule_din (ks : KeySize) (w : List Byte) : (r.storeSchedule ks w).din = r.din := by
  simp only [Regs.storeSchedule]
@[simp] theorem Regs.storeSchedule_gfa (ks : KeySize) (w : List Byte) : (r.storeSchedule ks w).gfa = r.gfa := by
  simp only [Regs.storeSchedule]
@[simp] theorem Regs.storeSchedule_gfb (ks : KeySize) (w : List Byte) : (r.storeSchedule ks w).gfb = r.gfb := by
  simp only [Regs.storeSchedule]
@[simp] theorem Regs.storeSchedule_dout (ks : KeySize) (w : List Byte) : (r.storeSchedule ks w).dout = r.dout := by
  simp only [Regs.storeSchedule]
@[simp] theorem Regs.storeSchedule_gfp (ks : KeySize) (w : List Byte) : (r.storeSchedule ks w).gfp = r.gfp := by
  simp only [Regs.storeSchedule]
@[simp] theorem Regs.storeSchedule_rk (ks : KeySize) (w : List Byte) : (r.storeSchedule ks w).rk = scheduleMemory ks w := by
  simp only [Regs.storeSchedule]
@[simp] theorem Regs.storeSchedule_rounds (ks : KeySize) (w : List Byte) : (r.storeSchedule ks w).rounds = BitVec.ofNat 8 ks.rounds := by
  simp only [Regs.storeSchedule]
@[simp] theorem Regs.storeSchedule_rklen (ks : KeySize) (w : List Byte) : (r.storeSchedule ks w).rklen = BitVec.ofNat 8 ks.sched := by
  simp only [Regs.storeSchedule]
@[simp] theorem Regs.storeSchedule_status (ks : KeySize) (w : List Byte) : (r.storeSchedule ks w).status = r.status := by
  simp only [Regs.storeSchedule]
@[simp] theorem Regs.storeSchedule_errcode (ks : KeySize) (w : List Byte) : (r.storeSchedule ks w).errcode = r.errcode := by
  simp only [Regs.storeSchedule]

/-! `setDout`. R16: only `DOUT` changes. -/

@[simp] theorem Regs.setDout_key (b : Block) : (r.setDout b).key = r.key := by
  simp only [Regs.setDout]
@[simp] theorem Regs.setDout_ksize (b : Block) : (r.setDout b).ksize = r.ksize := by
  simp only [Regs.setDout]
@[simp] theorem Regs.setDout_din (b : Block) : (r.setDout b).din = r.din := by
  simp only [Regs.setDout]
@[simp] theorem Regs.setDout_gfa (b : Block) : (r.setDout b).gfa = r.gfa := by
  simp only [Regs.setDout]
@[simp] theorem Regs.setDout_gfb (b : Block) : (r.setDout b).gfb = r.gfb := by
  simp only [Regs.setDout]
@[simp] theorem Regs.setDout_dout (b : Block) : (r.setDout b).dout = b := by
  simp only [Regs.setDout]
@[simp] theorem Regs.setDout_gfp (b : Block) : (r.setDout b).gfp = r.gfp := by
  simp only [Regs.setDout]
@[simp] theorem Regs.setDout_rk (b : Block) : (r.setDout b).rk = r.rk := by
  simp only [Regs.setDout]
@[simp] theorem Regs.setDout_rounds (b : Block) : (r.setDout b).rounds = r.rounds := by
  simp only [Regs.setDout]
@[simp] theorem Regs.setDout_rklen (b : Block) : (r.setDout b).rklen = r.rklen := by
  simp only [Regs.setDout]
@[simp] theorem Regs.setDout_status (b : Block) : (r.setDout b).status = r.status := by
  simp only [Regs.setDout]
@[simp] theorem Regs.setDout_errcode (b : Block) : (r.setDout b).errcode = r.errcode := by
  simp only [Regs.setDout]

/-! `setGfp`. R18: only `GFP` changes. -/

@[simp] theorem Regs.setGfp_key (v : Byte) : (r.setGfp v).key = r.key := by
  simp only [Regs.setGfp]
@[simp] theorem Regs.setGfp_ksize (v : Byte) : (r.setGfp v).ksize = r.ksize := by
  simp only [Regs.setGfp]
@[simp] theorem Regs.setGfp_din (v : Byte) : (r.setGfp v).din = r.din := by
  simp only [Regs.setGfp]
@[simp] theorem Regs.setGfp_gfa (v : Byte) : (r.setGfp v).gfa = r.gfa := by
  simp only [Regs.setGfp]
@[simp] theorem Regs.setGfp_gfb (v : Byte) : (r.setGfp v).gfb = r.gfb := by
  simp only [Regs.setGfp]
@[simp] theorem Regs.setGfp_dout (v : Byte) : (r.setGfp v).dout = r.dout := by
  simp only [Regs.setGfp]
@[simp] theorem Regs.setGfp_gfp (v : Byte) : (r.setGfp v).gfp = v := by
  simp only [Regs.setGfp]
@[simp] theorem Regs.setGfp_rk (v : Byte) : (r.setGfp v).rk = r.rk := by
  simp only [Regs.setGfp]
@[simp] theorem Regs.setGfp_rounds (v : Byte) : (r.setGfp v).rounds = r.rounds := by
  simp only [Regs.setGfp]
@[simp] theorem Regs.setGfp_rklen (v : Byte) : (r.setGfp v).rklen = r.rklen := by
  simp only [Regs.setGfp]
@[simp] theorem Regs.setGfp_status (v : Byte) : (r.setGfp v).status = r.status := by
  simp only [Regs.setGfp]
@[simp] theorem Regs.setGfp_errcode (v : Byte) : (r.setGfp v).errcode = r.errcode := by
  simp only [Regs.setGfp]

/-! `cleared` (R157) and the reset state (R32): every register is zero. -/

@[simp] theorem Regs.cleared_key : r.cleared.key = Vector.replicate 32 0x00 := by
  simp only [Regs.cleared]
@[simp] theorem Regs.cleared_ksize : r.cleared.ksize = 0x00 := by
  simp only [Regs.cleared]
@[simp] theorem Regs.cleared_din : r.cleared.din = Vector.replicate 16 0x00 := by
  simp only [Regs.cleared]
@[simp] theorem Regs.cleared_gfa : r.cleared.gfa = 0x00 := by
  simp only [Regs.cleared]
@[simp] theorem Regs.cleared_gfb : r.cleared.gfb = 0x00 := by
  simp only [Regs.cleared]
@[simp] theorem Regs.cleared_dout : r.cleared.dout = Vector.replicate 16 0x00 := by
  simp only [Regs.cleared]
@[simp] theorem Regs.cleared_gfp : r.cleared.gfp = 0x00 := by
  simp only [Regs.cleared]
@[simp] theorem Regs.cleared_rk : r.cleared.rk = Vector.replicate 240 0x00 := by
  simp only [Regs.cleared]
@[simp] theorem Regs.cleared_rounds : r.cleared.rounds = 0x00 := by
  simp only [Regs.cleared]
@[simp] theorem Regs.cleared_rklen : r.cleared.rklen = 0x00 := by
  simp only [Regs.cleared]
@[simp] theorem Regs.cleared_status : r.cleared.status = 0x00 := by
  simp only [Regs.cleared]
@[simp] theorem Regs.cleared_errcode : r.cleared.errcode = 0x00 := by
  simp only [Regs.cleared]

@[simp] theorem Regs.reset_key : Regs.reset.key = Vector.replicate 32 0x00 := by
  simp only [Regs.reset]
@[simp] theorem Regs.reset_ksize : Regs.reset.ksize = 0x00 := by
  simp only [Regs.reset]
@[simp] theorem Regs.reset_din : Regs.reset.din = Vector.replicate 16 0x00 := by
  simp only [Regs.reset]
@[simp] theorem Regs.reset_gfa : Regs.reset.gfa = 0x00 := by
  simp only [Regs.reset]
@[simp] theorem Regs.reset_gfb : Regs.reset.gfb = 0x00 := by
  simp only [Regs.reset]
@[simp] theorem Regs.reset_dout : Regs.reset.dout = Vector.replicate 16 0x00 := by
  simp only [Regs.reset]
@[simp] theorem Regs.reset_gfp : Regs.reset.gfp = 0x00 := by
  simp only [Regs.reset]
@[simp] theorem Regs.reset_rk : Regs.reset.rk = Vector.replicate 240 0x00 := by
  simp only [Regs.reset]
@[simp] theorem Regs.reset_rounds : Regs.reset.rounds = 0x00 := by
  simp only [Regs.reset]
@[simp] theorem Regs.reset_rklen : Regs.reset.rklen = 0x00 := by
  simp only [Regs.reset]
@[simp] theorem Regs.reset_status : Regs.reset.status = 0x00 := by
  simp only [Regs.reset]
@[simp] theorem Regs.reset_errcode : Regs.reset.errcode = 0x00 := by
  simp only [Regs.reset]

/-- R186: what CLEAR leaves in the registers does not depend on what they held. -/
theorem Regs.cleared_eq_cleared (r r' : Regs) : r.cleared = r'.cleared := rfl

@[simp] theorem State.reset_regs : State.reset.regs = Regs.reset := rfl
@[simp] theorem State.reset_pending : State.reset.pending = [] := rfl
@[simp] theorem State.reset_replies : State.reset.replies = [] := rfl

@[simp] theorem State.withFetchWord_regs (nbits w : Nat) : (s.withFetchWord nbits w).regs = s.regs := rfl
@[simp] theorem State.withFetchWord_replies (nbits w : Nat) :
    (s.withFetchWord nbits w).replies = s.replies := rfl
@[simp] theorem State.withFetchWord_pending (nbits w : Nat) :
    (s.withFetchWord nbits w).pending = .write cmdAddr (BitVec.ofNat 8 w) :: s.pending := rfl

end Sys2Proof.Machine
end

