-- ==== Sys2Proof/Laws/Ops.lean ====
section
/-! SUPPORT. One lemma for each shared operation that says everything it can do. -/

namespace Sys2Proof.Machine

/-- R113: a key command with an invalid size is the error and nothing else. -/
theorem Regs.runKeyCommand_invalid {r : Regs} {f : KeySize → List Byte → Regs → Regs}
    (h : keySizeOf r.ksize = none) : r.runKeyCommand f = r.raise .invalidKeySize := by
  simp [Regs.runKeyCommand, h]

/-- A key command with a valid size: the schedule stored, what the command adds, and the epilogue. -/
theorem Regs.runKeyCommand_valid {r : Regs} {f : KeySize → List Byte → Regs → Regs} {ks : KeySize}
    (h : keySizeOf r.ksize = some ks) :
    r.runKeyCommand f =
      (f ks (expand ks (r.keyOperand ks)) (r.storeSchedule ks (expand ks (r.keyOperand ks)))).succeed := by
  simp [Regs.runKeyCommand, h]

/-- Byte `i` of the round-key memory that holds a schedule. -/
@[simp] theorem scheduleMemory_getElem (ks : KeySize) (w : List Byte) (i : Nat) (h : i < 240) :
    (scheduleMemory ks w)[i] = if i < ks.sched then w.getD i 0x00 else 0x00 := by
  simp [scheduleMemory]

/-- The address of a location leads back to it (R41). -/
theorem regAt_addrOf (loc : Reg) : regAt (addrOf loc) = some loc := by
  have hdin : ∀ i, regAt (addrOf (.din i)) = some (.din i) := by decide +kernel
  have hdout : ∀ i, regAt (addrOf (.dout i)) = some (.dout i) := by decide +kernel
  have hkey : ∀ i, regAt (addrOf (.key i)) = some (.key i) := by decide +kernel
  have hrk : ∀ i, regAt (addrOf (.rk i)) = some (.rk i) := by decide +kernel
  cases loc with
  | din i => exact hdin i
  | dout i => exact hdout i
  | key i => exact hkey i
  | rk i => exact hrk i
  | _ => decide

/-- Only its own address leads to a location (R41). -/
theorem addrOf_of_regAt {a : Addr} {loc : Reg} (h : regAt a = some loc) : addrOf loc = a := by
  have hall : ∀ a : Addr, ∀ loc ∈ regAt a, addrOf loc = a := by decide +kernel
  exact hall a loc h

/-- Two addresses that lead to one location are equal (R41). -/
theorem regAt_inj {a b : Addr} {loc : Reg} (ha : regAt a = some loc) (hb : regAt b = some loc) : a = b := by
  rw [← addrOf_of_regAt ha, ← addrOf_of_regAt hb]

/-- `CMD` is at one address only (R41, R60). -/
theorem regAt_eq_cmd_iff {a : Addr} : regAt a = some .cmd ↔ a = cmdAddr :=
  ⟨fun h => (addrOf_of_regAt h).symm, fun h => h ▸ regAt_addrOf .cmd⟩

/-- What the read of a location's address returns (R44). -/
theorem Regs.readByte_addrOf (r : Regs) (loc : Reg) : r.readByte (addrOf loc) = r.get loc := by
  unfold Regs.readByte
  rw [regAt_addrOf]
  cases loc <;> rfl

/-- A host-writable location other than `CMD` that was set holds the value (R45). -/
theorem Regs.get_set_self (r : Regs) {loc : Reg} (h : loc.hostWritable = true) (hc : loc ≠ .cmd) (v : Byte) :
    (r.set loc v).get loc = v := by
  cases loc <;> simp_all [Reg.hostWritable, Regs.set, Regs.get]

/-- Setting a location leaves what every other location holds (R45). -/
theorem Regs.get_set_of_ne (r : Regs) {loc other : Reg} (h : other ≠ loc) (v : Byte) :
    (r.set loc v).get other = r.get other := by
  cases loc <;> cases other <;>
    simp_all [Regs.set, Regs.get, Fin.ext_iff, eq_comm]

end Sys2Proof.Machine
end

