-- ==== Sys2Proof/Laws/Memory.lean ====
section
/-! SUPPORT. The canonical list of the register space keeps its form whatever the registers hold, and
reading it is reading the port. -/

namespace Sys2Proof.Machine

theorem Regs.cellAt_eq_some {r : Regs} {n : Nat} {c : Host.Cell} (h : r.cellAt n = some c) :
    c.1 = n ∧ c.2 = r.readByte (BitVec.ofNat 9 n) ∧ c.2 ≠ Memory.unlisted := by
  simp only [Regs.cellAt] at h
  split at h
  · cases h
  · cases h
    exact ⟨rfl, rfl, ‹_›⟩

/-- The view of the register space is in canonical form, for every content of the registers: so every
operation on the registers keeps it. -/
theorem Regs.space_wf (r : Regs) : r.space.wf := by
  refine ⟨?_, ?_⟩
  · unfold Regs.space
    rw [List.pairwise_filterMap]
    refine List.pairwise_lt_range.imp ?_
    intro a b hab c hc d hd
    rw [(Regs.cellAt_eq_some hc).1, (Regs.cellAt_eq_some hd).1]
    exact hab
  · intro c hc
    obtain ⟨n, hn, hcn⟩ := List.mem_filterMap.mp hc
    obtain ⟨h1, -, h3⟩ := Regs.cellAt_eq_some hcn
    exact ⟨h1 ▸ List.mem_range.mp hn, h3⟩

/-- Reading the view at an address is reading the port there (R44). -/
theorem Regs.read_space (r : Regs) (a : Addr) : r.space.read a.toNat = r.readByte a := by
  unfold Memory.read
  split
  · rename_i c hc
    have hmem := List.mem_of_find?_eq_some hc
    have ha : c.1 = a.toNat := by simpa using List.find?_some hc
    obtain ⟨n, -, hcn⟩ := List.mem_filterMap.mp hmem
    obtain ⟨h1, h2, -⟩ := Regs.cellAt_eq_some hcn
    rw [h2, ← h1, ha, BitVec.ofNat_toNat, BitVec.setWidth_eq]
  · rename_i hnone
    by_contra hne
    have hcell : r.cellAt a.toNat = some (a.toNat, r.readByte a) := by
      simp [Regs.cellAt, Ne.symm hne]
    have hmem : (a.toNat, r.readByte a) ∈ r.space :=
      List.mem_filterMap.mpr ⟨a.toNat, List.mem_range.mpr a.isLt, hcell⟩
    exact absurd (List.find?_eq_none.mp hnone _ hmem) (by simp)

end Sys2Proof.Machine
end

