-- ==== Sys2Proof/Laws/PerInstr.lean ====
section
/-! SUPPORT. Facts about every command as syntax, one lemma per constructor. -/

namespace Sys2Proof.Laws.TableRow

/-- The command is well formed, its code is a defined one, and the opcode table has a row that compares all
eight bits of a byte with that code (R61). -/
def Statement (i : Instr) : Prop :=
  i.wellFormed = true ∧ codeDefined (encode i) = true ∧ OpcodeRow.mk (encode i) 0xFF i ∈ opcodeTable

theorem nop : Statement .nop := by simp [Statement, opcodeTable, encode, Instr.wellFormed, codeDefined]
theorem expand : Statement .expand := by simp [Statement, opcodeTable, encode, Instr.wellFormed, codeDefined]
theorem encrypt : Statement .encrypt := by simp [Statement, opcodeTable, encode, Instr.wellFormed, codeDefined]
theorem decrypt : Statement .decrypt := by simp [Statement, opcodeTable, encode, Instr.wellFormed, codeDefined]
theorem gfmul : Statement .gfmul := by simp [Statement, opcodeTable, encode, Instr.wellFormed, codeDefined]
theorem clear : Statement .clear := by simp [Statement, opcodeTable, encode, Instr.wellFormed, codeDefined]

end Sys2Proof.Laws.TableRow
end

