-- ==== Sys2Proof/Laws/Step.lean ====
section
/-! SUPPORT. What `exec` and `step` can do, said once: every command answers a next state that differs in the
registers alone, and every step is one of the cases below. -/

namespace Sys2Proof.Machine

/-- The registers that a command leaves. -/
def commandResult (i : Instr) (r : Regs) : Regs :=
  match i with
  | .nop => r
  | .expand => r.runKeyCommand fun _ _ r => r
  | .encrypt => r.runKeyCommand fun ks w r => r.setDout (cipher ks w r.blockOperand)
  | .decrypt => r.runKeyCommand fun ks w r => r.setDout (inverseCipher ks w r.blockOperand)
  | .gfmul => (r.setGfp (mul r.gfa r.gfb)).succeed
  | .clear => r.cleared

/-- Every command answers a next state, and it touches the registers only. -/
theorem exec_eq (i : Instr) (s : State) : exec i s = .next { s with regs := commandResult i s.regs } := by
  cases i <;> rfl

/-- The next state of a command is the one `commandResult` gives. -/
theorem exec_next {i : Instr} {s t : State} (h : exec i s = .next t) :
    t = { s with regs := commandResult i s.regs } := by
  rw [exec_eq] at h
  exact (Host.Outcome.next.inj h).symm

/-- A key command ends in the error, or in success with the schedule of the key it read in `RK`. -/
theorem runKeyCommand_cases (r : Regs) (f : KeySize → List Byte → Regs → Regs) :
    (keySizeOf r.ksize = none ∧ r.runKeyCommand f = r.raise .invalidKeySize) ∨
    (∃ ks, keySizeOf r.ksize = some ks ∧
      r.runKeyCommand f =
        (f ks (expand ks (r.keyOperand ks)) (r.storeSchedule ks (expand ks (r.keyOperand ks)))).succeed) := by
  cases h : keySizeOf r.ksize with
  | none => exact .inl ⟨rfl, Regs.runKeyCommand_invalid h⟩
  | some ks => exact .inr ⟨ks, rfl, Regs.runKeyCommand_valid h⟩

/-- What one step does: nothing without an event; else the oldest event leaves the queue and is a reset, a
read, a plain write, a command or an illegal command byte. -/
theorem step_cases {s t : State} (h : step s = .next t) :
    (s.pending = [] ∧ t = s) ∨
    (∃ rest, s.pending = .reset :: rest ∧ t = { s with pending := rest, regs := Regs.reset }) ∨
    (∃ a rest, s.pending = .read a :: rest ∧
      t = { s with pending := rest, replies := s.replies ++ [s.regs.readByte a] }) ∨
    (∃ a v rest, s.pending = .write a v :: rest ∧ a ≠ cmdAddr ∧
      t = { s with pending := rest, regs := s.regs.writeByte a v }) ∨
    (∃ c i rest, s.pending = .write cmdAddr c :: rest ∧ decode c = .ok i ∧
      t = { s with pending := rest, regs := commandResult i s.regs }) ∨
    (∃ c rest, s.pending = .write cmdAddr c :: rest ∧ decode c = .error (.illegalCode c) ∧
      t = { s with pending := rest, regs := s.regs.raise .illegalCommand }) := by
  unfold step fetch at h
  cases hp : s.pending with
  | nil =>
    simp only [hp] at h
    exact .inl ⟨rfl, (Host.Outcome.next.inj h).symm⟩
  | cons e rest =>
    simp only [hp, performEvent] at h
    cases e with
    | reset => exact .inr (.inl ⟨rest, rfl, (Host.Outcome.next.inj h).symm⟩)
    | read a => exact .inr (.inr (.inl ⟨a, rest, rfl, (Host.Outcome.next.inj h).symm⟩))
    | write a v =>
      simp only [regAt_eq_cmd_iff] at h
      by_cases ha : a = cmdAddr
      · subst ha
        simp only [if_true, commandWrite] at h
        cases hd : decode v with
        | ok i =>
          simp only [hd] at h
          exact .inr (.inr (.inr (.inr (.inl ⟨v, i, rest, rfl, hd, exec_next h⟩))))
        | error e =>
          have he : e = .illegalCode v := by
            unfold decode at hd
            split at hd
            · cases hd
            · exact (Except.error.inj hd).symm
          subst he
          simp only [hd] at h
          exact .inr (.inr (.inr (.inr (.inr ⟨v, rest, rfl, hd, (Host.Outcome.next.inj h).symm⟩))))
      · simp only [ha, if_false] at h
        exact .inr (.inr (.inr (.inl ⟨a, v, rest, rfl, ha, (Host.Outcome.next.inj h).symm⟩)))

end Sys2Proof.Machine
end

