-- ==== Sys2Proof/Machine/Latency.lean ====
section
/-! DEFINITION. The time a command takes (spec/70_reset_and_hazards.md R190), as the open parameter
`LATENCY(cmd, KS)`. No meaning, no step and no statement reads it (notes/assumptions/3.md). -/

namespace Sys2Proof.Machine

/-- R190: the time of a key command depends on the key size and nothing else; the time of GFMUL, NOP and
CLEAR is constant. The figures are open (U13); this records the form
of the parameter and claims nothing about the machine (notes/assumptions/3.md). -/
def commandTime (i : Instr) (r : Regs) : Nat :=
  match i with
  | .nop => Config.latency .nop none
  | .expand => Config.latency .expand (keySizeOf r.ksize)
  | .encrypt => Config.latency .encrypt (keySizeOf r.ksize)
  | .decrypt => Config.latency .decrypt (keySizeOf r.ksize)
  | .gfmul => Config.latency .gfmul none
  | .clear => Config.latency .clear none

end Sys2Proof.Machine
end

