-- ==== Sys2Proof/Machine/Script.lean ====
section
/-! DEFINITION. Host scripts: the macros and the written form of host events (spec/30_encoding.md R67, R68).
A script is run by standing in `pending`. -/

namespace Sys2Proof.Machine

/-- The address `base + i` of byte `i` of an array (R47). -/
def offset (base i : Nat) : Addr := BitVec.ofNat 9 (base + i)

/-- A command is issued by a write of its code to `CMD` (R67). -/
def issue (i : Instr) : HostEvent := .write cmdAddr (encode i)

/-- Writes of the bytes of a list, in index order, from an address on. -/
def loadBytes (base : Nat) (bytes : List Byte) : List HostEvent :=
  bytes.mapIdx fun i b => .write (offset base i) b

/-- Reads of `n` bytes, in index order, from an address on. -/
def readBytes (base n : Nat) : List HostEvent :=
  (List.range n).map fun i => .read (offset base i)

/-- The expansion of a macro (R68). `LDKEY` writes the byte count to `KSIZE` last. -/
def macroEvents (m : Macro) : List HostEvent :=
  match m with
  | .ldkey bytes => loadBytes 0x040 bytes ++ [.write (addrOf .ksize) (BitVec.ofNat 8 bytes.length)]
  | .ldblk block => loadBytes 0x010 block.toList
  | .rdblk => readBytes 0x020 16
  | .rdrk r => readBytes (0x100 + 16 * r) 16
  | .enc => [issue .encrypt, .read (addrOf .status)]
  | .dec => [issue .decrypt, .read (addrOf .status)]
  | .exp => [issue .expand, .read (addrOf .status)]
  | .mul a b => [.write (addrOf .gfa) a, .write (addrOf .gfb) b, issue .gfmul, .read (addrOf .gfp)]

/-- One upper-case hexadecimal digit. -/
def hexDigit (n : Nat) : Char :=
  ['0', '1', '2', '3', '4', '5', '6', '7', '8', '9', 'A', 'B', 'C', 'D', 'E', 'F'].getD (n % 16) '0'

/-- Two hexadecimal digits. -/
def hexByte (b : Byte) : List Char := [hexDigit (b.toNat / 16), hexDigit b.toNat]

/-- Three hexadecimal digits. -/
def hexAddr (a : Addr) : List Char :=
  [hexDigit (a.toNat / 256), hexDigit (a.toNat / 16), hexDigit a.toNat]

/-- The encoding of one script line (R67): `RST`, `W aaa dd`, and `R aaa -> dd` with the byte the read
yielded. -/
def eventText (e : HostEvent) (yielded : Byte) : List Char :=
  match e with
  | .reset => ['R', 'S', 'T']
  | .write a v => ['W', ' '] ++ hexAddr a ++ [' '] ++ hexByte v
  | .read a => ['R', ' '] ++ hexAddr a ++ [' ', '-', '>', ' '] ++ hexByte yielded

end Sys2Proof.Machine
end

