-- ==== Sys2Proof/Tests/Slice0.lean ====
section
/-! SUPPORT. The model's own tests and the witnesses of the statements. Expected values come from
spec/95_test_vectors.md and the examples of the rules cited. -/

namespace Sys2Proof.Tests

open Sys2Proof Sys2Proof.Machine

/-! ## Well-formedness refuses -/

/-- R68: 33 bytes are too many for `LDKEY`. -/
theorem test_ldkey_of_33_bytes_refused : (Macro.ldkey (List.replicate 33 0x00)).wellFormed = false := by decide
theorem test_ldkey_of_32_bytes_accepted : (Macro.ldkey (List.replicate 32 0x00)).wellFormed = true := by decide
/-- `RK` ends with round key 14 (R41). -/
theorem test_rdrk_15_refused : (Macro.rdrk 15).wellFormed = false := by decide
theorem test_rdrk_14_accepted : (Macro.rdrk 14).wellFormed = true := by decide
/-- R62: the codes from 0x06 on are not defined. No term of `Instr` is ill formed (R60). -/
theorem test_code_06_undefined : codeDefined 0x06 = false := by decide
theorem test_code_FF_undefined : codeDefined 0xFF = false := by decide
theorem test_code_05_defined : codeDefined 0x05 = true := by decide

/-! ## Decoding, each command by its byte bit by bit (R60, R61) -/

theorem test_decode_nop : decode 0b00000000#8 = .ok .nop := by decide
theorem test_decode_expand : decode 0b00000001#8 = .ok .expand := by decide
theorem test_decode_encrypt : decode 0b00000010#8 = .ok .encrypt := by decide
theorem test_decode_decrypt : decode 0b00000011#8 = .ok .decrypt := by decide
theorem test_decode_gfmul : decode 0b00000100#8 = .ok .gfmul := by decide
theorem test_decode_clear : decode 0b00000101#8 = .ok .clear := by decide
theorem test_decode_first_illegal : decode 0b00000110#8 = .error (.illegalCode 0x06) := by decide
/-- The high bits count (R61: all eight bits). -/
theorem test_decode_high_bit : decode 0b10000010#8 = .error (.illegalCode 0x82) := by decide
theorem test_tableWord_gfmul : decodeTableWord 8 0x04 = some .gfmul := by decide
theorem test_tableWord_illegal : decodeTableWord 8 0x06 = none := by decide
/-- No byte matches two rows of the opcode table. -/
theorem test_opcode_rows_distinct : opcodeTable.Pairwise (fun x y => x.pattern &&& y.mask ≠ y.pattern) := by
  decide

/-! ## The datapath functions, on the spec's vectors (95 sections 2 to 4) -/

theorem test_mul_57_13 : mul 0x57 0x13 = 0xFE := by decide
theorem test_mul_57_83 : mul 0x57 0x83 = 0xC1 := by decide
theorem test_mul_FF_FF : mul 0xFF 0xFF = 0x13 := by decide
theorem test_xtime_FF : xtime 0xFF = 0xE5 := by decide
theorem test_sbox_53 : sbox 0x53 = 0xED := by decide
theorem test_invSbox_52 : invSbox 0x52 = 0x48 := by decide
theorem test_subBytes :
    subBytes #v[0xFF, 0xEE, 0xDD, 0xCC, 0xBB, 0xAA, 0x99, 0x88, 0x77, 0x66, 0x55, 0x44, 0x33, 0x22, 0x11, 0x00] =
      #v[0x16, 0x28, 0xC1, 0x4B, 0xEA, 0xAC, 0xEE, 0xC4, 0xF5, 0x33, 0xFC, 0x1B, 0xC3, 0x93, 0x82, 0x63] := by decide +kernel
theorem test_invSubBytes :
    invSubBytes #v[0xFF, 0xEE, 0xDD, 0xCC, 0xBB, 0xAA, 0x99, 0x88, 0x77, 0x66, 0x55, 0x44, 0x33, 0x22, 0x11, 0x00] =
      #v[0x7D, 0x99, 0xC9, 0x27, 0xFE, 0x62, 0xF9, 0x97, 0x02, 0xD3, 0xED, 0x86, 0x66, 0x94, 0xE3, 0x52] := by decide +kernel
theorem test_shiftRows :
    shiftRows #v[0x00, 0x01, 0x02, 0x03, 0x04, 0x05, 0x06, 0x07, 0x08, 0x09, 0x0A, 0x0B, 0x0C, 0x0D, 0x0E, 0x0F] =
      #v[0x00, 0x05, 0x0A, 0x0F, 0x04, 0x09, 0x0E, 0x03, 0x08, 0x0D, 0x02, 0x07, 0x0C, 0x01, 0x06, 0x0B] := by decide +kernel
theorem test_invShiftRows :
    invShiftRows #v[0x00, 0x01, 0x02, 0x03, 0x04, 0x05, 0x06, 0x07, 0x08, 0x09, 0x0A, 0x0B, 0x0C, 0x0D, 0x0E, 0x0F] =
      #v[0x00, 0x0D, 0x0A, 0x07, 0x04, 0x01, 0x0E, 0x0B, 0x08, 0x05, 0x02, 0x0F, 0x0C, 0x09, 0x06, 0x03] := by decide +kernel
theorem test_mixColumns :
    mixColumns #v[0x00, 0x01, 0x02, 0x03, 0x04, 0x05, 0x06, 0x07, 0x08, 0x09, 0x0A, 0x0B, 0x0C, 0x0D, 0x0E, 0x0F] =
      #v[0x02, 0x07, 0x00, 0x05, 0x06, 0x03, 0x04, 0x01, 0x0A, 0x0F, 0x08, 0x0D, 0x0E, 0x0B, 0x0C, 0x09] := by decide +kernel
theorem test_invMixColumns :
    invMixColumns #v[0x00, 0x01, 0x02, 0x03, 0x04, 0x05, 0x06, 0x07, 0x08, 0x09, 0x0A, 0x0B, 0x0C, 0x0D, 0x0E, 0x0F] =
      #v[0x0A, 0x0F, 0x08, 0x0D, 0x0E, 0x0B, 0x0C, 0x09, 0x02, 0x07, 0x00, 0x05, 0x06, 0x03, 0x04, 0x01] := by decide +kernel
theorem test_mixColumn : mixColumn #v[0xD4, 0xBF, 0x5D, 0x30] = #v[0x04, 0x66, 0x81, 0xE5] := by decide
theorem test_invMixColumn : invMixColumn #v[0x8E, 0x4D, 0xA1, 0xBC] = #v[0xDB, 0x13, 0x53, 0x45] := by decide
theorem test_rotWord : rotWord #v[0x09, 0xCF, 0x4F, 0x3C] = #v[0xCF, 0x4F, 0x3C, 0x09] := by decide
theorem test_subWord : subWord #v[0x17, 0x16, 0x16, 0x16] = #v[0xF0, 0x47, 0x47, 0x47] := by decide
theorem test_keyCore_10 : keyCore #v[0x0E, 0x05, 0x14, 0xA3] 10 = #v[0x5D, 0xFA, 0x0A, 0xAB] := by decide +kernel
/-- The last round key of the FIPS-197 example key (95 section 7). -/
theorem test_expand_k24 :
    (expand .k24 [0x8E, 0x73, 0xB0, 0xF7, 0xDA, 0x0E, 0x64, 0x52, 0xC8, 0x10, 0xF3, 0x2B, 0x80, 0x90, 0x79, 0xE5, 0x62, 0xF8, 0xEA, 0xD2, 0x52, 0x2C, 0x6B, 0x7B]).drop 192 =
      [0xE9, 0x8B, 0xA0, 0x6F, 0x44, 0x8C, 0x77, 0x3C, 0x8E, 0xCC, 0x72, 0x04, 0x01, 0x00, 0x22, 0x02] := by decide +kernel

/-! ## One step of each command (95 sections 1, 4, 8) -/

/-- The reset state with `KEY` = 32 x `k`, `KSIZE`, `DIN`, the multiplier operands and the events given. -/
def machineWith (k ksize : Byte) (din : Block) (a b : Byte) (events : List HostEvent) : State :=
  { State.reset with
    regs := { Regs.reset with key := Vector.replicate 32 k, ksize := ksize, din := din, gfa := a, gfb := b }
    pending := events }

/-- The zero block. -/
def zeroBlock : Block := Vector.replicate 16 0x00

/-- One step on a machine of `machineWith`, and the registers it leaves. -/
def regsAfter (k ksize : Byte) (din : Block) (a b : Byte) (e : HostEvent) : Option Regs :=
  match step (machineWith k ksize din a b [e]) with
  | .next t => some t.regs
  | .fault _ => none
  | .refused _ => none

/-- Vector S1. -/
theorem test_encrypt_S1 :
    (regsAfter 0xFF 0x10 zeroBlock 0 0 (.write 0x000 0x02)).map (fun r => (r.dout, r.status, r.rounds)) =
      some (#v[0xA1, 0xF6, 0x25, 0x8C, 0x87, 0x7D, 0x5F, 0xCD, 0x89, 0x64, 0x48, 0x45, 0x38, 0xBF, 0xC9, 0x2C],
        0x01, 0x0B) := by decide +kernel
/-- Vector S2 (the example of R131). -/
theorem test_encrypt_S2 :
    (regsAfter 0xFF 0x18 zeroBlock 0 0 (.write 0x000 0x02)).map (fun r => (r.dout, r.status, r.rklen)) =
      some (#v[0xDD, 0x8A, 0x49, 0x35, 0x14, 0x23, 0x1C, 0xBF, 0x56, 0xEC, 0xCE, 0xE4, 0xC4, 0x08, 0x89, 0xFB],
        0x01, 0xD0) := by decide +kernel
/-- Vector S3 backward (the example of R144). -/
theorem test_decrypt_S3 :
    (regsAfter 0xFF 0x20 #v[0x4B, 0xF8, 0x5F, 0x1B, 0x5D, 0x54, 0xAD, 0xBC, 0x30, 0x7B, 0x0A, 0x04, 0x83, 0x89, 0xAD, 0xCB]
        0 0 (.write 0x000 0x03)).map (fun r => (r.dout, r.rounds, r.rklen)) =
      some (zeroBlock, 0x0F, 0xF0) := by decide +kernel
/-- T2: 33 is no key size, on the decrypt path. -/
theorem test_decrypt_size_33 :
    (regsAfter 0xFF 0x21 zeroBlock 0 0 (.write 0x000 0x03)).map (fun r => (r.dout, r.status, r.errcode)) =
      some (zeroBlock, 0x02, 0x01) := by decide +kernel
/-- The example of R114: round key 1 ends and the zero fill begins as listed. -/
theorem test_expand_example :
    (regsAfter 0xFF 0x10 zeroBlock 0 0 (.write 0x000 0x01)).map
        (fun r => (r.rk[16], r.rk[31], r.rk[175], r.rk[176], r.status)) =
      some (0xE8, 0x16, 0x26, 0x00, 0x01) := by decide +kernel
/-- R188: straight after reset EXPAND is rejected. -/
theorem test_expand_after_reset :
    (regsAfter 0x00 0x00 zeroBlock 0 0 (.write 0x000 0x01)).map (fun r => (r.status, r.errcode)) =
      some (0x02, 0x01) := by decide +kernel
/-- The example of R85. -/
theorem test_gfmul_example :
    (regsAfter 0x00 0x00 zeroBlock 0x57 0x83 (.write 0x000 0x04)).map (fun r => (r.gfp, r.status)) =
      some (0xC1, 0x01) := by decide +kernel
theorem test_gfmul_reduces :
    (regsAfter 0x00 0x11 zeroBlock 0x02 0x80 (.write 0x000 0x04)).map (fun r => (r.gfp, r.errcode)) =
      some (0x1B, 0x00) := by decide +kernel
/-- R156: NOP after reset leaves `STATUS` at 0x00. -/
theorem test_nop_after_reset :
    (regsAfter 0x00 0x00 zeroBlock 0 0 (.write 0x000 0x00)).map (fun r => r.status) = some 0x00 := by
  decide +kernel
/-- R157: CLEAR zeroes the operands too. -/
theorem test_clear_operands :
    regsAfter 0xFF 0x10 zeroBlock 0x57 0x83 (.write 0x000 0x05) = some Regs.reset := by decide +kernel
/-- R158. -/
theorem test_illegal_code :
    (regsAfter 0x00 0x00 zeroBlock 0x02 0x80 (.write 0x000 0xFF)).map (fun r => (r.status, r.errcode, r.gfa)) =
      some (0x02, 0x02, 0x02) := by decide +kernel

/-! ## Port accesses and scripts -/

/-- `WR STATUS, FF` is ignored (95 section 8). -/
theorem test_write_status_ignored :
    regsAfter 0xFF 0x10 zeroBlock 0 0 (.write 0x001 0xFF) =
      some (machineWith 0xFF 0x10 zeroBlock 0 0 []).regs := by decide +kernel
theorem test_write_last_key_byte :
    (regsAfter 0x00 0x00 zeroBlock 0 0 (.write 0x05F 0xAB)).map (fun r => (r.key[31], r.key[30])) =
      some (0xAB, 0x00) := by decide +kernel
theorem test_read_ksize :
    (machineWith 0xFF 0x18 zeroBlock 0 0 []).regs.readByte 0x002 = 0x18 := by decide
theorem test_read_unassigned : (machineWith 0xFF 0x18 zeroBlock 0 0 []).regs.readByte 0x060 = 0x00 := by decide
/-- P1's `MUL 57, 83` in events (R68). -/
theorem test_macro_mul :
    macroEvents (.mul 0x57 0x83) =
      [.write 0x006 0x57, .write 0x007 0x83, .write 0x000 0x04, .read 0x008] := by decide
/-- P4's `LDKEY` of 15 bytes ends `W 04E FF ; W 002 0F`. -/
theorem test_macro_ldkey :
    (macroEvents (.ldkey (List.replicate 15 0xFF))).drop 14 = [.write 0x04E 0xFF, .write 0x002 0x0F] := by decide
/-- P2's `RDRK 10` reads from 1A0 to 1AF. -/
theorem test_macro_rdrk :
    (macroEvents (.rdrk 10)).head? = some (.read 0x1A0) ∧ (macroEvents (.rdrk 10)).getLast? = some (.read 0x1AF) := by
  decide
/-- The written form of R67: `W 05F 1B` and `R 1EF -> 5E`. -/
theorem test_event_text :
    eventText (.write 0x05F 0x1B) 0x00 = ['W', ' ', '0', '5', 'F', ' ', '1', 'B'] ∧
    eventText (.read 0x1EF) 0x5E = ['R', ' ', '1', 'E', 'F', ' ', '-', '>', ' ', '5', 'E'] := by decide

/-! ## Witnesses: the hypotheses of each statement are met together -/

/-- The reset state with one host event waiting. -/
def waiting (e : HostEvent) : State := { State.reset with pending := [e] }

/-- The reset state with a value in `KSIZE`. -/
def sized (v : Byte) : State := { State.reset with regs := { Regs.reset with ksize := v } }

theorem witness_WriteToCmdRunsTheCommand :
    ∀ c ∈ ([0x00, 0x01, 0x02, 0x03, 0x04, 0x05] : List Byte),
      (waiting (.write 0x000 c)).pending = .write 0x000 c :: [] := by decide

/-- The first and the last illegal code; for the statements about illegal codes. -/
theorem witness_IllegalCodeChangesOnlyTheStatusBytes :
    ∀ c ∈ ([0x06, 0xFF] : List Byte),
      (waiting (.write 0x000 c)).pending = .write 0x000 c :: [] ∧ 6 ≤ c.toNat := by decide

theorem witness_CommandBytesDecodeAsTheTableSays : 6 ≤ (0x06 : Byte).toNat ∧ 6 ≤ (0xFF : Byte).toNat := by decide

theorem witness_EncodingAndDecodingAgree : decode 0x05 = .ok .clear := by decide

theorem witness_StepRunsTheDecodedCommand :
    (waiting (.write 0x000 0x05)).pending = .write 0x000 0x05 :: [] ∧ decode 0x05 = .ok .clear ∧
      Instr.clear.wellFormed = true := by decide

theorem witness_PlacedCommandRunsNext :
    decodeTableWord 8 0 = some .nop ∧ decodeTableWord 8 5 = some .clear := by decide

theorem witness_OnlyIllegalCodesRaiseIllegalCommand :
    ∃ t : State, step (waiting (.write 0x000 0x06)) = .next t ∧ t.regs.errcode = 0x02 ∧
      (waiting (.write 0x000 0x06)).regs.errcode ≠ 0x02 ∧
      (waiting (.write 0x000 0x06)).pending = .write 0x000 0x06 :: [] ∧ 6 ≤ (0x06 : Byte).toNat :=
  ⟨_, rfl, by decide, by decide, rfl, by decide⟩

theorem witness_CoreIsIdleWithoutEvents : State.reset.pending = [] := rfl

theorem witness_ResetEventZeroesEveryRegister : (waiting .reset).pending = .reset :: [] := rfl

theorem witness_ClearAndResetGiveTheSameRegisters :
    (waiting .reset).pending = .reset :: [] ∧ ∃ t : State, step (waiting .reset) = .next t := ⟨rfl, _, rfl⟩

/-- One address for each clause, at both ends of its range. -/
theorem witness_ReadReturnsTheRegisterAtTheAddress :
    (∀ a : Addr, (waiting (.read a)).pending = .read a :: []) ∧
    (0x010 : Addr) = BitVec.ofNat 9 (0x010 + (0 : Fin 16).val) ∧
    (0x01F : Addr) = BitVec.ofNat 9 (0x010 + (15 : Fin 16).val) ∧
    (0x020 : Addr) = BitVec.ofNat 9 (0x020 + (0 : Fin 16).val) ∧
    (0x02F : Addr) = BitVec.ofNat 9 (0x020 + (15 : Fin 16).val) ∧
    (0x040 : Addr) = BitVec.ofNat 9 (0x040 + (0 : Fin 32).val) ∧
    (0x05F : Addr) = BitVec.ofNat 9 (0x040 + (31 : Fin 32).val) ∧
    (0x100 : Addr) = BitVec.ofNat 9 (0x100 + (0 : Fin 240).val) ∧
    (0x1EF : Addr) = BitVec.ofNat 9 (0x100 + (239 : Fin 240).val) ∧
    ∀ a ∈ ([0x009, 0x00F, 0x030, 0x03F, 0x060, 0x0FF, 0x1F0, 0x1FF] : List Addr),
      (0x009 ≤ a.toNat ∧ a.toNat ≤ 0x00F) ∨ (0x030 ≤ a.toNat ∧ a.toNat ≤ 0x03F) ∨
        (0x060 ≤ a.toNat ∧ a.toNat ≤ 0x0FF) ∨ 0x1F0 ≤ a.toNat :=
  ⟨fun _ => rfl, by decide, by decide, by decide, by decide, by decide, by decide, by decide, by decide,
    by decide⟩

/-- The ends of the ranges that ignore a write, and no address of a range that takes one is among them. -/
theorem witness_WriteSetsOnlyTheRegisterAtTheAddress :
    (∀ (a : Addr) (v : Byte), (waiting (.write a v)).pending = .write a v :: []) ∧
    decode 0x00 = .ok .nop ∧
    (∀ a ∈ ([0x001, 0x003, 0x005, 0x008, 0x00F, 0x020, 0x03F, 0x060, 0x100, 0x1FF] : List Addr),
      a.toNat = 0x001 ∨ (0x003 ≤ a.toNat ∧ a.toNat ≤ 0x005) ∨ (0x008 ≤ a.toNat ∧ a.toNat ≤ 0x00F) ∨
        (0x020 ≤ a.toNat ∧ a.toNat ≤ 0x03F) ∨ 0x060 ≤ a.toNat) ∧
    ∀ a ∈ ([0x000, 0x002, 0x006, 0x007, 0x010, 0x01F, 0x040, 0x05F] : List Addr),
      ¬ (a.toNat = 0x001 ∨ (0x003 ≤ a.toNat ∧ a.toNat ≤ 0x005) ∨ (0x008 ≤ a.toNat ∧ a.toNat ≤ 0x00F) ∨
        (0x020 ≤ a.toNat ∧ a.toNat ≤ 0x03F) ∨ 0x060 ≤ a.toNat) :=
  ⟨fun _ _ => rfl, by decide, by decide, by decide⟩

theorem witness_WrittenByteReadsBack :
    (∃ loc, regAt 0x05F = some loc ∧ loc.hostWritable = true ∧ loc ≠ .cmd) ∧ (0x05E : Addr) ≠ 0x05F :=
  ⟨⟨.key 31, by decide⟩, by decide⟩

theorem witness_OperandWritesCommute : (0x040 : Addr) ≠ 0x002 := by decide

theorem witness_RegisterSpaceShowsAllState :
    ∀ a : Addr, (sized 0x10).regs.cleared.readByte a = Regs.reset.readByte a := fun _ => rfl

/-- The three valid sizes; for the statements about a valid key size. -/
theorem witness_ExpandStoresTheSchedule :
    (sized 0x10).regs.ksize.toNat = KeySize.k16.bytes ∧ (sized 0x18).regs.ksize.toNat = KeySize.k24.bytes ∧
      (sized 0x20).regs.ksize.toNat = KeySize.k32.bytes := by decide

/-- The neighbours of the valid sizes and the ends of the range; for the statements about an invalid one. -/
theorem witness_invalid_sizes :
    ∀ v ∈ ([0x00, 0x0F, 0x11, 0x17, 0x19, 0x1F, 0x21, 0xFF] : List Byte), ¬ ValidKeySize (sized v).regs.ksize := by
  unfold ValidKeySize
  decide

theorem witness_EncryptWritesTheCiphertext : (sized 0x18).regs.ksize.toNat = KeySize.k24.bytes := by decide
theorem witness_DecryptWritesThePlaintext : (sized 0x20).regs.ksize.toNat = KeySize.k32.bytes := by decide

/-- Every command answers a next state on every state; for the statements that suppose one. -/
theorem witness_exec_answers (i : Instr) (s : State) : ∃ t : State, exec i s = .next t := ⟨_, exec_eq i s⟩

theorem witness_InvalidKeySizeIsRaisedByKeyCommandsOnly :
    (∃ t : State, exec .expand (sized 0x00) = .next t ∧ t.regs.errcode = 0x01) ∧
    (sized 0x00).regs.errcode ≠ 0x01 ∧ (∃ t : State, exec .nop (sized 0x00) = .next t) ∧
    (waiting (.write 0x002 0x11)).pending = .write 0x002 0x11 :: [] :=
  ⟨⟨_, rfl, by decide⟩, by decide, ⟨_, rfl⟩, rfl⟩

theorem witness_SuccessClearsTheErrorIndication :
    (∃ t : State, exec .encrypt (sized 0x10) = .next t) ∧ ValidKeySize (sized 0x10).regs.ksize :=
  ⟨witness_exec_answers _ _, .inl (by decide)⟩

theorem witness_CommandsLeaveTheOperands : Instr.decrypt ≠ .clear ∧ ∃ t : State, exec .decrypt (sized 0x20) = .next t :=
  ⟨by decide, witness_exec_answers _ _⟩

theorem witness_OnlyGfmulAndClearWriteGfp :
    Instr.expand ≠ .gfmul ∧ Instr.expand ≠ .clear ∧ (∃ t : State, exec .expand (sized 0x20) = .next t) ∧
      ∃ t : State, exec .gfmul (sized 0x20) = .next t :=
  ⟨by decide, by decide, witness_exec_answers _ _, witness_exec_answers _ _⟩

/-- The addresses next to the written ones. -/
theorem witness_CommandsChangeOnlyTheirResults :
    (∃ t : State, exec .encrypt (sized 0x20) = .next t) ∧
    ∀ a ∈ ([0x000, 0x002, 0x006, 0x01F, 0x030, 0x0FF, 0x1F0] : List Addr),
      a ≠ 0x001 ∧ ¬ (0x003 ≤ a.toNat ∧ a.toNat ≤ 0x005) ∧ ¬ (0x020 ≤ a.toNat ∧ a.toNat ≤ 0x02F) ∧
        ¬ (0x100 ≤ a.toNat ∧ a.toNat ≤ 0x1EF) :=
  ⟨witness_exec_answers _ _, by decide⟩

/-- Two states that differ in `KEY[16]`, with a 16-byte key. -/
theorem witness_KeyTailNeverInfluencesAResult :
    ∃ s s' t t' : State, s'.regs = { s.regs with key := s'.regs.key } ∧ s'.regs.key ≠ s.regs.key ∧
      (∀ (k : Nat) (h : k < 32), k < s.regs.ksize.toNat → s'.regs.key[k] = s.regs.key[k]) ∧
      exec .encrypt s = .next t ∧ exec .encrypt s' = .next t' := by
  refine ⟨sized 0x10, { sized 0x10 with
    regs := { (sized 0x10).regs with key := (Vector.replicate 32 0x00).set 16 0xFF } }, _, _, rfl, by decide,
    by decide, exec_eq _ _, exec_eq _ _⟩

/-- Two states that differ in what an earlier command left in `RK`. -/
theorem witness_KeyCommandsNeverUseAStoredSchedule :
    ∃ s s' t t' : State, s'.regs.key = s.regs.key ∧ s'.regs.ksize = s.regs.ksize ∧
      s'.regs.din = s.regs.din ∧ s'.regs.rk ≠ s.regs.rk ∧ ValidKeySize s.regs.ksize ∧
      exec .decrypt s = .next t ∧ exec .decrypt s' = .next t' := by
  refine ⟨sized 0x10, { sized 0x10 with
    regs := { (sized 0x10).regs with rk := (Vector.replicate 240 0x00).set 0 0xFF } }, _, _, rfl, rfl, rfl,
    by decide +kernel, .inl (by decide), exec_eq _ _, exec_eq _ _⟩

theorem witness_RoundKeysAreReadAtTheirAddresses :
    (sized 0x10).regs.ksize.toNat = KeySize.k16.bytes ∧ (∃ t : State, exec .expand (sized 0x10) = .next t) ∧
      14 < 15 ∧ 15 < 16 ∧ 10 < KeySize.k16.rounds ∧ ¬ 11 < KeySize.k16.rounds :=
  ⟨by decide, witness_exec_answers _ _, by decide, by decide, by decide, by decide⟩

/-- A state of each valid size, two of them with different keys. -/
theorem witness_KeyCommandWorkDependsOnKsizeAlone :
    (sized 0x10).regs.ksize.toNat = KeySize.k16.bytes ∧
      (machineWith 0xFF 0x10 zeroBlock 0 0 []).regs.ksize.toNat = KeySize.k16.bytes ∧
      (sized 0x18).regs.ksize.toNat = KeySize.k24.bytes ∧
      (sized 0x20).regs.ksize.toNat = KeySize.k32.bytes := by decide

/-- A rejected state meets the invariant, and its next event is a plain write. -/
theorem witness_StepKeepsTheInvariant :
    ∃ s t : State, s.Inv ∧ step s = .next t ∧ s.regs.errFlag = true :=
  ⟨{ waiting (.write 0x002 0x10) with regs := { Regs.reset with status := 0x02, errcode := 0x01 } }, _,
    { lengths := by decide, empty := fun _ => rfl, held := fun h => absurd rfl h,
      status := by decide, errcode := by decide }, rfl, by decide⟩

theorem witness_ReachableStatesMeetTheInvariant :
    ∃ t : State, Sys2Proof.core.run 2 { State.reset with pending := [.write 0x002 0x10, .read 0x002] } = .next t ∧
      t.replies = [0x10] := ⟨_, rfl, by decide +kernel⟩

theorem witness_MulObeysTheFieldLaws : (0x01 : Byte) ≠ 0x00 ∧ mul 0x53 0xCA = 0x01 := by decide

theorem witness_SboxIsTheAffineTransformOfTheInverse : mul 0x53 0xCA = 0x01 ∧ mul 0x01 0x01 = 0x01 := by decide

/-- Keys of the three lengths; for the statements about the expansion. -/
theorem witness_keys_of_valid_length :
    ∀ ks : KeySize, (List.replicate ks.bytes (0xFF : Byte)).length = ks.bytes := fun _ => List.length_replicate

/-- The first and the last word index of each size; for ScheduleWordsObeyTheRecurrence. -/
theorem witness_ScheduleWordsObeyTheRecurrence :
    KeySize.k16.bytes / 4 ≤ 4 ∧ 43 < 4 * KeySize.k16.rounds ∧ KeySize.k24.bytes / 4 ≤ 6 ∧
      51 < 4 * KeySize.k24.rounds ∧ KeySize.k32.bytes / 4 ≤ 8 ∧ 59 < 4 * KeySize.k32.rounds := by decide

/-- Both ends of the iterations; for ExpansionHasTheScheduleLength. -/
theorem witness_ExpansionHasTheScheduleLength :
    0 ≤ (KeySize.k16.sched - KeySize.k16.bytes) / 4 ∧ (KeySize.k16.sched - KeySize.k16.bytes) / 4 = 40 ∧
      (KeySize.k24.sched - KeySize.k24.bytes) / 4 = 46 ∧ (KeySize.k32.sched - KeySize.k32.bytes) / 4 = 52 := by
  decide

/-- Two round-constant functions that agree on 1 to 10 and differ at 11. -/
theorem witness_RoundConstantIsAskedOnlyInRange :
    ∃ f g : Nat → Byte, (∀ j : Nat, 1 ≤ j → j ≤ 10 → f j = g j) ∧ f 11 ≠ g 11 :=
  ⟨fun _ => 0x00, fun j => if j ≤ 10 then 0x00 else 0x01, fun j _ h => by simp [h], by decide⟩

theorem witness_RoundConstantsDouble : 1 ≤ 1 ∧ 1 ≤ 9 ∧ 9 ≤ 9 := by decide

theorem witness_EncryptCopyDecryptRestoresTheBlock :
    ValidKeySize (sized 0x10).regs.ksize ∧ ValidKeySize (sized 0x18).regs.ksize ∧
      ValidKeySize (sized 0x20).regs.ksize := ⟨.inl (by decide), .inr (.inl (by decide)), .inr (.inr (by decide))⟩

/-- A write to the read-only `STATUS` and a read are events of the last clause; the other clauses share
`witness_exec_answers`, `witness_StepKeepsTheInvariant` and `witness_IllegalCodeChangesOnlyTheStatusBytes`. -/
theorem witness_StatusFlagsReportTheLastCommand :
    (waiting (.write 0x001 0xFF)).pending = .write 0x001 0xFF :: [] ∧
      (∃ t : State, step (waiting (.write 0x001 0xFF)) = .next t) ∧
      HostEvent.write 0x001 0xFF ≠ .reset ∧ (∀ c : Byte, HostEvent.write 0x001 0xFF ≠ .write 0x000 c) ∧
      ∃ t : State, step (waiting (.write 0x000 0x06)) = .next t :=
  ⟨rfl, ⟨_, rfl⟩, by decide, by decide, ⟨_, rfl⟩⟩

end Sys2Proof.Tests
end

section
/-! PROOFS. The scope statements (spec/00_scope.md). -/

namespace Sys2Proof.Machine

/-- R6: with no host event waiting there is nothing to perform. -/
theorem fetch_of_pending_nil {s : State} (h : s.pending = []) : fetch s = .done s := by
  simp only [fetch, h]

/-- An event that runs no command ends the step in the state that taking it left. -/
theorem step_of_fetch_done {s t : State} (h : fetch s = .done t) : step s = .next t := by
  simp only [step, h]

/-- Settles O8: an empty queue leaves `fetch` done with the same state, and so the step. -/
theorem coreIsIdleWithoutEvents : Obligations.CoreIsIdleWithoutEvents :=
  fun _ hp => step_of_fetch_done (fetch_of_pending_nil hp)

end Sys2Proof.Machine
end

section
/-! PROOFS. The statements about the state (spec/10_state.md). -/

namespace Sys2Proof.Machine

/-! ## The registers as the host sees them -/

/-- The registers are determined by what their locations hold (R10, R28). -/
theorem Regs.eq_of_get_eq {r r' : Regs} (h : ∀ loc, r.get loc = r'.get loc) : r = r' := by
  have hdin : r.din = r'.din := Vector.ext fun i hi => h (.din ⟨i, hi⟩)
  have hdout : r.dout = r'.dout := Vector.ext fun i hi => h (.dout ⟨i, hi⟩)
  have hkey : r.key = r'.key := Vector.ext fun i hi => h (.key ⟨i, hi⟩)
  have hrk : r.rk = r'.rk := Vector.ext fun i hi => h (.rk ⟨i, hi⟩)
  cases r
  cases r'
  obtain rfl := h .ksize
  obtain rfl := h .gfa
  obtain rfl := h .gfb
  obtain rfl := h .gfp
  obtain rfl := h .rounds
  obtain rfl := h .rklen
  obtain rfl := h .status
  obtain rfl := h .errcode
  cases hdin
  cases hdout
  cases hkey
  cases hrk
  rfl

/-- Settles O17: every location has an address at which the host reads what it holds. -/
theorem registerSpaceShowsAllState : Obligations.RegisterSpaceShowsAllState := by
  intro r r' h
  refine Regs.eq_of_get_eq fun loc => ?_
  rw [← Regs.readByte_addrOf, ← Regs.readByte_addrOf, h]

/-- A host write never reaches a register that only commands write (R16, R18 to R25). -/
theorem Regs.set_results (r : Regs) (loc : Reg) (v : Byte) :
    (r.set loc v).dout = r.dout ∧ (r.set loc v).gfp = r.gfp ∧ (r.set loc v).rk = r.rk ∧
    (r.set loc v).rounds = r.rounds ∧ (r.set loc v).rklen = r.rklen ∧
    (r.set loc v).status = r.status ∧ (r.set loc v).errcode = r.errcode := by
  cases loc <;> exact ⟨rfl, rfl, rfl, rfl, rfl, rfl, rfl⟩

/-- A host write sets one location or is ignored (R45). -/
theorem Regs.writeByte_cases (r : Regs) (a : Addr) (v : Byte) :
    r.writeByte a v = r ∨
      ∃ loc, regAt a = some loc ∧ loc.hostWritable = true ∧ r.writeByte a v = r.set loc v := by
  unfold Regs.writeByte
  split
  · next loc ha =>
    split
    · next hw => exact .inr ⟨loc, ha, hw, rfl⟩
    · exact .inl rfl
  · exact .inl rfl

/-- `Regs.set_results` for a write at an address. -/
theorem Regs.writeByte_results (r : Regs) (a : Addr) (v : Byte) :
    (r.writeByte a v).dout = r.dout ∧ (r.writeByte a v).gfp = r.gfp ∧ (r.writeByte a v).rk = r.rk ∧
    (r.writeByte a v).rounds = r.rounds ∧ (r.writeByte a v).rklen = r.rklen ∧
    (r.writeByte a v).status = r.status ∧ (r.writeByte a v).errcode = r.errcode := by
  rcases r.writeByte_cases a v with h | ⟨loc, -, -, h⟩
  · rw [h]
    exact ⟨rfl, rfl, rfl, rfl, rfl, rfl, rfl⟩
  · rw [h]
    exact r.set_results loc v

/-! ## What an event can do -/

/-- Taking the oldest event performs it on the state whose queue it has left. -/
theorem fetch_of_pending_cons {s : State} {e : HostEvent} {rest : List HostEvent}
    (h : s.pending = e :: rest) : fetch s = performEvent e { s with pending := rest } := by
  simp only [fetch, h]

/-- Settles O10: the event is performed on the state that keeps the other events and the replies. -/
theorem resetEventZeroesEveryRegister : Obligations.ResetEventZeroesEveryRegister := by
  intro s rest hp
  exact step_of_fetch_done (fetch_of_pending_cons hp)

/-- R62: no row of the opcode table matches a byte from 0x06 on. -/
theorem decode_of_illegal {c : Byte} (hc : 6 ≤ c.toNat) : decode c = .error (.illegalCode c) := by
  have hnone : opcodeTable.find? (fun row => c &&& row.mask == row.pattern) = none := by
    rw [List.find?_eq_none]
    intro row hrow hmatch
    have hrows : ∀ row ∈ opcodeTable, row.mask = BitVec.allOnes 8 ∧ row.pattern.toNat < 6 := by decide
    obtain ⟨hmask, hpat⟩ := hrows row hrow
    rw [hmask, BitVec.and_allOnes, beq_iff_eq] at hmatch
    rw [hmatch] at hc
    omega
  simp only [decode, hnone]

/-- R158: an illegal code written to `CMD` is the error and nothing else. -/
theorem step_of_illegal_code {s : State} {c : Byte} {rest : List HostEvent}
    (h : s.pending = .write cmdAddr c :: rest) (hc : 6 ≤ c.toNat) :
    step s = .next { s with pending := rest, regs := s.regs.raise .illegalCommand } := by
  refine step_of_fetch_done ?_
  rw [fetch_of_pending_cons h]
  simp only [performEvent, regAt_eq_cmd_iff, if_true, commandWrite, decode_of_illegal hc]

/-- R24: register reads and register writes never change `STATUS`. -/
theorem step_status_of_access {s t : State} {e : HostEvent} {rest : List HostEvent}
    (hp : s.pending = e :: rest) (hreset : e ≠ .reset) (hcmd : ∀ c : Byte, e ≠ .write cmdAddr c)
    (h : step s = .next t) : t.regs.status = s.regs.status := by
  rcases step_cases h with ⟨hp', -⟩ | ⟨_, hp', -⟩ | ⟨_, _, -, rfl⟩ | ⟨a, v, _, -, -, rfl⟩ |
    ⟨c, _, _, hp', -⟩ | ⟨c, _, hp', -⟩
  · simp [hp] at hp'
  · exact absurd (List.cons.inj (hp.symm.trans hp')).1 hreset
  · rfl
  · obtain ⟨-, -, -, -, -, hstatus, -⟩ := s.regs.writeByte_results a v
    exact hstatus
  · exact absurd (List.cons.inj (hp.symm.trans hp')).1 (hcmd c)
  · exact absurd (List.cons.inj (hp.symm.trans hp')).1 (hcmd c)

/-! ## What a command can do -/

/-- The commands that use the key (R113). -/
abbrev IsKeyCommand (i : Instr) : Prop := i = .expand ∨ i = .encrypt ∨ i = .decrypt

/-- What a key command leaves in `DOUT` when it succeeds with the schedule `w` (R114, R131, R144). -/
def keyCommandBlock (i : Instr) (ks : KeySize) (w : List Byte) (r : Regs) : Block :=
  match i with
  | .encrypt => cipher ks w r.din
  | .decrypt => inverseCipher ks w r.din
  | _ => r.dout

/-- The registers after a key command that succeeds: the schedule of the key operand, the block, and the
success epilogue. -/
def Regs.keyCommandSuccess (r : Regs) (i : Instr) (ks : KeySize) : Regs :=
  let w := expand ks (r.keyOperand ks)
  ((r.storeSchedule ks w).setDout (keyCommandBlock i ks w r)).succeed

@[simp] theorem Regs.setDout_self (r : Regs) : r.setDout r.dout = r := rfl

/-- The three key commands are one frame that adds the block (R113). -/
theorem commandResult_of_isKeyCommand {i : Instr} (hi : IsKeyCommand i) (r : Regs) :
    commandResult i r = r.runKeyCommand fun ks w r => r.setDout (keyCommandBlock i ks w r) := by
  rcases hi with rfl | rfl | rfl
  · simp only [commandResult, keyCommandBlock, Regs.setDout_self]
  · rfl
  · rfl

/-- The block does not depend on what storing the schedule writes (R115). -/
theorem keyCommandBlock_storeSchedule (i : Instr) (ks : KeySize) (w w' : List Byte) (r : Regs) :
    keyCommandBlock i ks w (r.storeSchedule ks w') = keyCommandBlock i ks w r := by
  cases i <;> simp only [keyCommandBlock, Regs.storeSchedule_din, Regs.storeSchedule_dout]

/-- R113: a key command with an invalid size is the error and nothing else. -/
theorem commandResult_of_invalid_size {i : Instr} {r : Regs} (hi : IsKeyCommand i)
    (h : keySizeOf r.ksize = none) : commandResult i r = r.raise .invalidKeySize := by
  rw [commandResult_of_isKeyCommand hi, Regs.runKeyCommand_invalid h]

/-- R114, R131, R144: a key command with a valid size. -/
theorem commandResult_of_valid_size {i : Instr} {r : Regs} {ks : KeySize} (hi : IsKeyCommand i)
    (h : keySizeOf r.ksize = some ks) : commandResult i r = r.keyCommandSuccess i ks := by
  rw [commandResult_of_isKeyCommand hi, Regs.runKeyCommand_valid h, keyCommandBlock_storeSchedule,
    Regs.keyCommandSuccess]

/-- What a command can do to the registers, said once. -/
theorem commandResult_cases (i : Instr) (r : Regs) :
    (i = .nop ∧ commandResult i r = r) ∨
    (i = .clear ∧ commandResult i r = r.cleared) ∨
    (i = .gfmul ∧ commandResult i r = (r.setGfp (mul r.gfa r.gfb)).succeed) ∨
    (IsKeyCommand i ∧ keySizeOf r.ksize = none ∧ commandResult i r = r.raise .invalidKeySize) ∨
    (IsKeyCommand i ∧ ∃ ks, keySizeOf r.ksize = some ks ∧
      commandResult i r = r.keyCommandSuccess i ks) := by
  by_cases hi : IsKeyCommand i
  · cases hk : keySizeOf r.ksize with
    | none => exact .inr (.inr (.inr (.inl ⟨hi, rfl, commandResult_of_invalid_size hi hk⟩)))
    | some ks => exact .inr (.inr (.inr (.inr ⟨hi, ks, rfl, commandResult_of_valid_size hi hk⟩)))
  · cases i with
    | nop => exact .inl ⟨rfl, rfl⟩
    | clear => exact .inr (.inl ⟨rfl, rfl⟩)
    | gfmul => exact .inr (.inr (.inl ⟨rfl, rfl⟩))
    | expand | encrypt | decrypt => simp [IsKeyCommand] at hi

/-! ## The invariant (R29) -/

/-- The clauses (a) to (c) of R29: what `RK`, `ROUNDS` and `RKLEN` hold. -/
structure Regs.ScheduleInv (r : Regs) : Prop where
  lengths : r.rklen.toNat = 16 * r.rounds.toNat ∧
    (r.rounds = 0 ∨ r.rounds = 11 ∨ r.rounds = 13 ∨ r.rounds = 15)
  empty : r.rounds = 0 → r.rk = Vector.replicate 240 0x00
  held : r.rounds ≠ 0 → r.HoldsSchedule

/-- The clauses (d) and (e) of R29: what `STATUS` and `ERRCODE` hold. -/
structure Regs.StatusInv (r : Regs) : Prop where
  status : r.status = 0x00 ∨ r.status = 0x01 ∨ r.status = 0x02
  errcode : (r.status ≠ 0x02 → r.errcode = 0x00) ∧
    (r.status = 0x02 → r.errcode = 0x01 ∨ r.errcode = 0x02)

theorem Regs.inv_iff {r : Regs} : r.Inv ↔ r.ScheduleInv ∧ r.StatusInv :=
  ⟨fun ⟨ha, hb, hc, hd, he⟩ => ⟨⟨ha, hb, hc⟩, ⟨hd, he⟩⟩,
    fun ⟨⟨ha, hb, hc⟩, ⟨hd, he⟩⟩ => ⟨ha, hb, hc, hd, he⟩⟩

/-- The schedule's clauses read three registers only. -/
theorem Regs.ScheduleInv.congr {r r' : Regs} (h : r.ScheduleInv) (hrk : r'.rk = r.rk)
    (hrounds : r'.rounds = r.rounds) (hrklen : r'.rklen = r.rklen) : r'.ScheduleInv := by
  obtain ⟨ha, hb, hc⟩ := h
  refine ⟨?_, ?_, ?_⟩
  · rwa [hrklen, hrounds]
  · rwa [hrk, hrounds]
  · rwa [Regs.HoldsSchedule, hrk, hrounds]

/-- The status clauses read two registers only. -/
theorem Regs.StatusInv.congr {r r' : Regs} (h : r.StatusInv) (hstatus : r'.status = r.status)
    (herrcode : r'.errcode = r.errcode) : r'.StatusInv := by
  obtain ⟨hd, he⟩ := h
  refine ⟨?_, ?_⟩
  · rwa [hstatus]
  · rwa [hstatus, herrcode]

/-- A schedule that a key command stores meets the schedule's clauses, whatever was there. -/
theorem Regs.scheduleInv_keyCommandSuccess (r : Regs) (i : Instr) (ks : KeySize) :
    (r.keyCommandSuccess i ks).ScheduleInv := by
  have hrounds : (r.keyCommandSuccess i ks).rounds = BitVec.ofNat 8 ks.rounds := rfl
  have hrklen : (r.keyCommandSuccess i ks).rklen = BitVec.ofNat 8 ks.sched := rfl
  refine ⟨?_, fun h0 => ?_, fun _ => ⟨ks, r.keyOperand ks, r.length_keyOperand ks, hrounds, rfl⟩⟩
  · rw [hrounds, hrklen]
    cases ks <;> decide
  · rw [hrounds] at h0
    cases ks <;> exact absurd h0 (by decide)

/-- Success is a legal status (R160). -/
theorem Regs.statusInv_succeed (r : Regs) : r.succeed.StatusInv :=
  ⟨.inr (.inl rfl), fun _ => rfl, fun h => absurd h (by decide : statusSuccess ≠ 0x02)⟩

/-- An error is a legal status (R170). -/
theorem Regs.statusInv_raise (r : Regs) (e : CommandError) : (r.raise e).StatusInv := by
  refine ⟨.inr (.inr rfl), fun h => absurd rfl h, fun _ => ?_⟩
  cases e with
  | invalidKeySize => exact .inl rfl
  | illegalCommand => exact .inr rfl

/-- The reset state meets the invariant: no schedule, no flag (R32). -/
theorem Regs.inv_reset : Regs.reset.Inv where
  lengths := by decide
  empty := fun _ => rfl
  held := fun h => absurd rfl h
  status := .inl rfl
  errcode := by decide

/-- An error keeps the invariant (R170). -/
theorem Regs.Inv.raise {r : Regs} (h : r.Inv) (e : CommandError) : (r.raise e).Inv :=
  Regs.inv_iff.mpr ⟨(Regs.inv_iff.mp h).1.congr rfl rfl rfl, r.statusInv_raise e⟩

/-- A host write keeps the invariant (R45). -/
theorem Regs.Inv.writeByte {r : Regs} (h : r.Inv) (a : Addr) (v : Byte) : (r.writeByte a v).Inv := by
  obtain ⟨hsched, hstat⟩ := Regs.inv_iff.mp h
  obtain ⟨-, -, hrk, hrounds, hrklen, hstatus, herrcode⟩ := r.writeByte_results a v
  exact Regs.inv_iff.mpr ⟨hsched.congr hrk hrounds hrklen, hstat.congr hstatus herrcode⟩

/-- Every command keeps the invariant. -/
theorem Regs.Inv.commandResult {r : Regs} (h : r.Inv) (i : Instr) : (commandResult i r).Inv := by
  rcases commandResult_cases i r with
    ⟨-, hr⟩ | ⟨-, hr⟩ | ⟨-, hr⟩ | ⟨-, -, hr⟩ | ⟨-, ks, -, hr⟩ <;> rw [hr]
  · exact h
  · exact Regs.inv_reset
  · exact Regs.inv_iff.mpr ⟨(Regs.inv_iff.mp h).1.congr rfl rfl rfl, Regs.statusInv_succeed _⟩
  · exact h.raise .invalidKeySize
  · exact Regs.inv_iff.mpr ⟨r.scheduleInv_keyCommandSuccess i ks, Regs.statusInv_succeed _⟩

/-- Settles O34: the registers of the machine after reset are `Regs.reset`. -/
theorem resetMeetsTheInvariant : Obligations.ResetMeetsTheInvariant := Regs.inv_reset

/-- Settles O35: an event changes the registers by a reset, a host write, a command or the illegal-command
error, and each of these keeps the invariant. -/
theorem stepKeepsTheInvariant : Obligations.StepKeepsTheInvariant := by
  intro s t hs h
  have hr : s.regs.Inv := hs
  rcases step_cases h with ⟨-, rfl⟩ | ⟨rest, -, rfl⟩ | ⟨a, rest, -, rfl⟩ | ⟨a, v, rest, -, -, rfl⟩ |
    ⟨c, i, rest, -, -, rfl⟩ | ⟨c, rest, -, -, rfl⟩
  · exact hr
  · exact Regs.inv_reset
  · exact hr
  · exact hr.writeByte a v
  · exact hr.commandResult i
  · exact hr.raise .illegalCommand

/-- A run of one step more is a step and the rest of the run. -/
theorem core_run_succ {n : Nat} {s t : State} (h : Sys2Proof.core.run (n + 1) s = .next t) :
    ∃ u : State, step s = .next u ∧ Sys2Proof.core.run n u = .next t := by
  obtain ⟨u, hu⟩ : ∃ u : State, Sys2Proof.core.step s = .next u := by
    cases hs : Sys2Proof.core.step s with
    | next u => exact ⟨u, rfl⟩
    | fault e | refused e => simp [Host.Core.run, hs] at h
  refine ⟨u, hu, ?_⟩
  simpa [Host.Core.run, hu] using h

/-- What every step keeps, every run keeps. -/
theorem core_run_keeps {P : State → Prop} (hstep : ∀ s t : State, P s → step s = .next t → P t) :
    ∀ (n : Nat) (s t : State), P s → Sys2Proof.core.run n s = .next t → P t := by
  intro n
  induction n with
  | zero =>
    intro s t hs h
    exact Host.Outcome.next.inj h ▸ hs
  | succ n ih =>
    intro s t hs h
    obtain ⟨u, hsu, hut⟩ := core_run_succ h
    exact ih u t (hstep s u hs hsu) hut

/-- Settles O36: the invariant holds at reset, whatever events wait, and every step keeps it. -/
theorem reachableStatesMeetTheInvariant : Obligations.ReachableStatesMeetTheInvariant :=
  fun script n t => core_run_keeps stepKeepsTheInvariant n { State.reset with pending := script } t
    Regs.inv_reset

/-! ## What commands leave alone -/

/-- Settles O27: no case of a command but CLEAR's writes an operand register. -/
theorem commandsLeaveTheOperands : Obligations.CommandsLeaveTheOperands := by
  intro s t i hi h
  rw [exec_next h]
  rcases commandResult_cases i s.regs with
    ⟨-, hr⟩ | ⟨hc, -⟩ | ⟨-, hr⟩ | ⟨-, -, hr⟩ | ⟨-, ks, -, hr⟩
  · simp only [hr, and_self]
  · exact absurd hc hi
  · simp [hr]
  · simp [hr]
  · simp [hr, Regs.keyCommandSuccess]

/-- Settles O28: the cases of a command, and the read-only location at 0x008. -/
theorem onlyGfmulAndClearWriteGfp : Obligations.OnlyGfmulAndClearWriteGfp := by
  refine ⟨fun s t h => ?_, fun s t i hg hc h => ?_, fun r v => ⟨r.readByte_addrOf .gfp, rfl⟩⟩
  · rw [exec_next h]
    rfl
  · rw [exec_next h]
    rcases commandResult_cases i s.regs with
      ⟨-, hr⟩ | ⟨hi, -⟩ | ⟨hi, -⟩ | ⟨-, -, hr⟩ | ⟨-, ks, -, hr⟩
    · rw [hr]
    · exact absurd hi hc
    · exact absurd hi hg
    · simp [hr]
    · simp [hr, Regs.keyCommandSuccess]

/-- Two register states with the same first `KS` bytes of `KEY` give the same key operand (R12). -/
theorem Regs.keyOperand_congr {r r' : Regs} {ks : KeySize}
    (h : ∀ (k : Nat) (hk : k < 32), k < ks.bytes → r'.key[k] = r.key[k]) :
    r'.keyOperand ks = r.keyOperand ks := by
  refine List.ext_getElem (by simp) fun k hk _ => ?_
  have hlt : k < ks.bytes := by simpa using hk
  have hk32 : k < 32 := hlt.trans_le ks.bytes_le
  simpa [Regs.keyOperand] using h k hk32 hlt

/-- The registers with another `KEY`. -/
def Regs.withKey (r : Regs) (key : Vector Byte 32) : Regs := { r with key := key }

/-- A key command that succeeds sees `KEY` through the key operand alone (R12). -/
theorem Regs.keyCommandSuccess_withKey {r : Regs} {ks : KeySize} {key : Vector Byte 32}
    (h : (r.withKey key).keyOperand ks = r.keyOperand ks) (i : Instr) :
    (r.withKey key).keyCommandSuccess i ks = (r.keyCommandSuccess i ks).withKey key := by
  have hblock (w : List Byte) : keyCommandBlock i ks w (r.withKey key) = keyCommandBlock i ks w r := by
    cases i <;> simp only [keyCommandBlock, Regs.withKey]
  simp only [Regs.keyCommandSuccess, h, hblock]
  rfl

/-- A command with another `KEY` of the same key operand gives the same registers but for `KEY` (R12). -/
theorem commandResult_withKey (i : Instr) {r : Regs} {key : Vector Byte 32}
    (h : ∀ ks, keySizeOf r.ksize = some ks → (r.withKey key).keyOperand ks = r.keyOperand ks) :
    ∃ key', commandResult i (r.withKey key) = (commandResult i r).withKey key' := by
  rcases commandResult_cases i r with
    ⟨rfl, -⟩ | ⟨rfl, -⟩ | ⟨rfl, -⟩ | ⟨hi, hk, hr⟩ | ⟨hi, ks, hk, hr⟩
  · exact ⟨key, rfl⟩
  · exact ⟨Vector.replicate 32 0x00, rfl⟩
  · exact ⟨key, rfl⟩
  · rw [hr, commandResult_of_invalid_size (r := r.withKey key) hi hk]
    exact ⟨key, rfl⟩
  · rw [hr, commandResult_of_valid_size (r := r.withKey key) hi hk]
    exact ⟨key, Regs.keyCommandSuccess_withKey (h ks hk) i⟩

/-- Settles O30: the key bytes below `KSIZE` are the key operand, and a command sees no other. -/
theorem keyTailNeverInfluencesAResult : Obligations.KeyTailNeverInfluencesAResult := by
  intro s s' t t' i hregs hkey h h'
  have hs' : s'.regs = s.regs.withKey s'.regs.key := hregs
  have hop : ∀ ks, keySizeOf s.regs.ksize = some ks →
      (s.regs.withKey s'.regs.key).keyOperand ks = s.regs.keyOperand ks := fun ks hks =>
    Regs.keyOperand_congr fun k hk hlt => hkey k hk (keySizeOf_eq_some_iff.mp hks ▸ hlt)
  obtain ⟨key', hres⟩ := commandResult_withKey i hop
  have ht' : t'.regs = t.regs.withKey key' := by
    rw [exec_next h, exec_next h', hs', hres]
  rw [ht']
  rfl

/-! ## Round keys at the port -/

/-- The byte read at the place of byte `n` of `RK` (R41). -/
theorem Regs.readByte_rk (r : Regs) (n : Nat) (h : n < 240) :
    r.readByte (BitVec.ofNat 9 (0x100 + n)) = r.rk[n] :=
  r.readByte_addrOf (.rk ⟨n, h⟩)

/-- Settles O32: a round key of the size lies inside the schedule, any other place behind it. -/
theorem roundKeysAreReadAtTheirAddresses : Obligations.RoundKeysAreReadAtTheirAddresses := by
  intro s t ks hks h r i hr hi
  have hres : commandResult .expand s.regs = s.regs.keyCommandSuccess .expand ks :=
    commandResult_of_valid_size (.inl rfl) (keySizeOf_eq_some_iff.mpr hks)
  have hrk : t.regs.rk = scheduleMemory ks (expand ks (s.regs.keyOperand ks)) := by
    rw [exec_next h, hres]
    rfl
  have hin : 16 * r + i < ks.sched ↔ r < ks.rounds := by
    rw [ks.sched_eq]
    omega
  rw [Nat.add_assoc, Regs.readByte_rk _ _ (by omega)]
  simp only [hrk, scheduleMemory_getElem, hin, Regs.keyOperand]

/-! ## The flags of `STATUS` -/

theorem Regs.flags_of_success {r : Regs} (h : r.status = statusSuccess) :
    r.doneFlag = true ∧ r.errFlag = false := by
  rw [Regs.doneFlag, Regs.errFlag, h]
  decide

theorem Regs.flags_of_error {r : Regs} (h : r.status = statusError) :
    r.doneFlag = false ∧ r.errFlag = true := by
  rw [Regs.doneFlag, Regs.errFlag, h]
  decide

theorem Regs.flags_of_zero {r : Regs} (h : r.status = 0x00) :
    r.doneFlag = false ∧ r.errFlag = false := by
  rw [Regs.doneFlag, Regs.errFlag, h]
  decide

/-- R24: under the invariant the flags exclude each other. -/
theorem Regs.Inv.not_done_and_err {r : Regs} (h : r.Inv) : ¬ (r.doneFlag = true ∧ r.errFlag = true) := by
  rintro ⟨hd, he⟩
  rcases h.status with h0 | h1 | h2
  · simp [Regs.flags_of_zero h0] at hd
  · simp [Regs.flags_of_success h1] at he
  · simp [Regs.flags_of_error h2] at hd

/-- R24: under the invariant the reserved bits are 0, since `STATUS` is below 4. -/
theorem Regs.Inv.status_reserved {r : Regs} (h : r.Inv) {k : Nat} (hk : 2 ≤ k) :
    r.status.getLsbD k = false := by
  have hlt : r.status.toNat < 2 ^ 2 := by
    rcases h.status with hs | hs | hs <;> rw [hs] <;> decide
  exact Nat.testBit_lt_two_pow (hlt.trans_le (Nat.pow_le_pow_right (by omega) hk))

/-- Settles O60, clause by clause of R24. -/
theorem statusFlagsReportTheLastCommand : Obligations.StatusFlagsReportTheLastCommand := by
  refine ⟨fun s hs => ⟨Regs.Inv.not_done_and_err hs, fun k => Regs.Inv.status_reserved hs⟩,
    Regs.flags_of_zero rfl, fun s t i h => ?_, fun s t c rest hp hc h => ?_,
    fun s t e rest hp hreset hcmd h => step_status_of_access hp hreset hcmd h⟩
  · rw [exec_next h]
    refine ⟨?_, ?_, ?_, fun hi hv => ?_, fun hi hv => ?_⟩
    · rintro rfl
      rfl
    · rintro rfl
      exact Regs.flags_of_zero rfl
    · rintro rfl
      exact Regs.flags_of_success rfl
    · obtain ⟨ks, hks⟩ := validKeySize_iff.mp hv
      rw [commandResult_of_valid_size hi (keySizeOf_eq_some_iff.mpr hks)]
      exact Regs.flags_of_success rfl
    · rw [commandResult_of_invalid_size hi (keySizeOf_eq_none_iff.mpr hv)]
      exact Regs.flags_of_error rfl
  · rw [step_of_illegal_code hp hc] at h
    exact Host.Outcome.next.inj h ▸ Regs.flags_of_error rfl

end Sys2Proof.Machine
end

section
/-! PROOFS. The statements about the register space (spec/20_memory.md). -/

namespace Sys2Proof.Machine

/-! ## The address map -/

/-- An address in one of the gaps of the map of R41. -/
abbrev Unassigned (a : Addr) : Prop :=
  (0x009 ≤ a.toNat ∧ a.toNat ≤ 0x00F) ∨ (0x030 ≤ a.toNat ∧ a.toNat ≤ 0x03F) ∨
    (0x060 ≤ a.toNat ∧ a.toNat ≤ 0x0FF) ∨ 0x1F0 ≤ a.toNat

/-- R41: an address is unassigned when every range test of the map fails. -/
theorem regAt_eq_none_iff {a : Addr} : regAt a = none ↔ Unassigned a := by
  simp only [regAt, ite_eq_iff, dite_eq_iff, reduceCtorEq, and_false, false_or, exists_false, exists_prop,
    and_true]
  omega

/-- R41: only `CMD` is not marked "R". -/
theorem Reg.hostReadable_iff (loc : Reg) : loc.hostReadable = true ↔ loc ≠ .cmd := by
  cases loc <;> simp [Reg.hostReadable]

/-- R41: the locations marked "W". -/
theorem Reg.hostWritable_iff (loc : Reg) : loc.hostWritable = true ↔
    loc = .cmd ∨ loc = .ksize ∨ loc = .gfa ∨ loc = .gfb ∨ (∃ i, loc = .din i) ∨ ∃ i, loc = .key i := by
  cases loc <;> simp [Reg.hostWritable]

/-- Settles O14: each location is at its address, the gaps are `regAt_eq_none_iff`, and the access rights
are read off location by location. -/
theorem registerMapIsTheSpecifiedOne : Obligations.RegisterMapIsTheSpecifiedOne :=
  ⟨regAt_addrOf .cmd, regAt_addrOf .status, regAt_addrOf .ksize, regAt_addrOf .errcode,
    regAt_addrOf .rounds, regAt_addrOf .rklen, regAt_addrOf .gfa, regAt_addrOf .gfb, regAt_addrOf .gfp,
    fun i => regAt_addrOf (.din i), fun i => regAt_addrOf (.dout i), fun i => regAt_addrOf (.key i),
    fun i => regAt_addrOf (.rk i), fun _ => regAt_eq_none_iff, Reg.hostReadable_iff, Reg.hostWritable_iff⟩

/-- An address of the map that R45 makes a write ignore: a read-only location or an unassigned one. -/
abbrev WriteIgnored (a : Addr) : Prop :=
  a.toNat = 0x001 ∨ (0x003 ≤ a.toNat ∧ a.toNat ≤ 0x005) ∨ (0x008 ≤ a.toNat ∧ a.toNat ≤ 0x00F) ∨
    (0x020 ≤ a.toNat ∧ a.toNat ≤ 0x03F) ∨ 0x060 ≤ a.toNat

/-- R41: no host-writable location is in the ranges that ignore a write. -/
theorem not_writeIgnored_addrOf {loc : Reg} (h : loc.hostWritable = true) : ¬ WriteIgnored (addrOf loc) := by
  rcases loc.hostWritable_iff.mp h with rfl | rfl | rfl | rfl | ⟨i, rfl⟩ | ⟨i, rfl⟩
  · decide
  · decide
  · decide
  · decide
  · simp only [WriteIgnored, addrOf, BitVec.toNat_ofNat]
    omega
  · simp only [WriteIgnored, addrOf, BitVec.toNat_ofNat]
    omega

/-! ## One byte of the port -/

/-- R44: an unassigned address reads 0x00. -/
theorem Regs.readByte_of_unassigned (r : Regs) {a : Addr} (h : Unassigned a) : r.readByte a = 0x00 := by
  simp only [Regs.readByte, regAt_eq_none_iff.mpr h]

/-- R45: a write at the address of a host-writable location sets it. -/
theorem Regs.writeByte_addrOf (r : Regs) {loc : Reg} (h : loc.hostWritable = true) (v : Byte) :
    r.writeByte (addrOf loc) v = r.set loc v := by
  simp only [Regs.writeByte, regAt_addrOf, h, if_true]

/-- R45: a write to a read-only location or an unassigned address does nothing. -/
theorem Regs.writeByte_of_writeIgnored (r : Regs) {a : Addr} (h : WriteIgnored a) (v : Byte) :
    r.writeByte a v = r := by
  rcases r.writeByte_cases a v with hr | ⟨loc, hloc, hw, -⟩
  · exact hr
  · rw [← addrOf_of_regAt hloc] at h
    exact absurd h (not_writeIgnored_addrOf hw)

/-- R44: two register states that agree on what stands at an address read alike there. -/
theorem Regs.readByte_congr {r r' : Regs} {a : Addr} (h : ∀ loc, regAt a = some loc → r.get loc = r'.get loc) :
    r.readByte a = r'.readByte a := by
  cases ha : regAt a with
  | none => simp only [Regs.readByte, ha]
  | some loc => simp only [Regs.readByte, ha, h loc ha]

/-- R49: the host reads back what it wrote. -/
theorem Regs.readByte_writeByte_self (r : Regs) {a : Addr} {loc : Reg} (ha : regAt a = some loc)
    (hw : loc.hostWritable = true) (hc : loc ≠ .cmd) (v : Byte) : (r.writeByte a v).readByte a = v := by
  rw [← addrOf_of_regAt ha, r.writeByte_addrOf hw, Regs.readByte_addrOf, r.get_set_self hw hc]

/-- R45: a write leaves what every other address reads. -/
theorem Regs.readByte_writeByte_of_ne (r : Regs) {a b : Addr} (h : b ≠ a) (v : Byte) :
    (r.writeByte a v).readByte b = r.readByte b := by
  rcases r.writeByte_cases a v with hr | ⟨loc, hloc, -, hr⟩
  · rw [hr]
  · rw [hr]
    refine Regs.readByte_congr fun other hother => r.get_set_of_ne ?_ v
    rintro rfl
    exact h (regAt_inj hother hloc)

/-- Settles O15: read-back at the written address and the frame at every other. -/
theorem writtenByteReadsBack : Obligations.WrittenByteReadsBack :=
  fun r _ v => ⟨fun ⟨_, ha, hw, hc⟩ => r.readByte_writeByte_self ha hw hc v,
    fun _ hb => r.readByte_writeByte_of_ne hb v⟩

/-! ## The step of a port access -/

section
variable {s : State} {a : Addr} {v : Byte} {rest : List HostEvent}

/-- R44: the step of a read. -/
theorem step_of_read (h : s.pending = .read a :: rest) :
    step s = .next { s with pending := rest, replies := s.replies ++ [s.regs.readByte a] } :=
  step_of_fetch_done (fetch_of_pending_cons h)

/-- R45: the step of a write that is no command. -/
theorem step_of_write (h : s.pending = .write a v :: rest) (ha : a ≠ cmdAddr) :
    step s = .next { s with pending := rest, regs := s.regs.writeByte a v } := by
  refine step_of_fetch_done ?_
  rw [fetch_of_pending_cons h]
  simp only [performEvent, regAt_eq_cmd_iff, ha, if_false]

/-- R155: the step of a write of a defined code to `CMD`. -/
theorem step_of_command {i : Instr} (h : s.pending = .write cmdAddr v :: rest) (hd : decode v = .ok i) :
    step s = exec i { s with pending := rest } := by
  simp only [step, fetch_of_pending_cons h, performEvent, regAt_eq_cmd_iff, if_true, commandWrite, hd]

/-- R45: the step of a write to a host-writable register. -/
theorem step_of_register_write {loc : Reg} (h : s.pending = .write a v :: rest) (ha : a = addrOf loc)
    (hw : loc.hostWritable = true) (hc : loc ≠ .cmd) :
    step s = .next { s with pending := rest, regs := s.regs.set loc v } := by
  subst ha
  have hne : addrOf loc ≠ cmdAddr := fun he => hc (Option.some.inj (he ▸ regAt_addrOf loc).symm)
  rw [step_of_write h hne, s.regs.writeByte_addrOf hw]

/-- R45: the step of a write that is ignored. -/
theorem step_of_ignored_write (h : s.pending = .write a v :: rest) (ha : WriteIgnored a) :
    step s = .next { s with pending := rest } := by
  have hne : a ≠ cmdAddr := by
    rintro rfl
    exact not_writeIgnored_addrOf (loc := .cmd) rfl ha
  rw [step_of_write h hne, s.regs.writeByte_of_writeIgnored ha]

end

/-- Settles O12: the reply is the byte of the port, which is the location's value at the location's address
and 0x00 in the gaps. -/
theorem readReturnsTheRegisterAtTheAddress : Obligations.ReadReturnsTheRegisterAtTheAddress := by
  intro s a rest hp
  have hread (loc : Reg) (ha : a = addrOf loc) : s.regs.readByte a = s.regs.get loc :=
    ha ▸ s.regs.readByte_addrOf loc
  exact ⟨s.regs.readByte a, step_of_read hp, hread .cmd, hread .status, hread .ksize, hread .errcode,
    hread .rounds, hread .rklen, hread .gfa, hread .gfb, hread .gfp, fun i => hread (.din i),
    fun i => hread (.dout i), fun i => hread (.key i), fun i => hread (.rk i),
    s.regs.readByte_of_unassigned⟩

/-- Settles O13: a write is a command, an illegal code, a register write or an ignored one. -/
theorem writeSetsOnlyTheRegisterAtTheAddress : Obligations.WriteSetsOnlyTheRegisterAtTheAddress := by
  intro s a v rest hp
  refine ⟨?_, ?_, fun ha => ?_, fun ha => ?_, fun ha => ?_, fun i ha => ?_, fun i ha => ?_, fun ha => ?_⟩
  · rintro rfl i hd
    exact step_of_command hp hd
  · rintro rfl hv
    exact step_of_illegal_code hp hv
  · exact step_of_register_write (loc := .ksize) hp ha rfl (by decide)
  · exact step_of_register_write (loc := .gfa) hp ha rfl (by decide)
  · exact step_of_register_write (loc := .gfb) hp ha rfl (by decide)
  · exact step_of_register_write (loc := .din i) hp ha rfl (by simp)
  · exact step_of_register_write (loc := .key i) hp ha rfl (by simp)
  · exact step_of_ignored_write hp ha

end Sys2Proof.Machine
end

section
/-! PROOFS. The statements about commands and their encoding (spec/30_encoding.md). -/

namespace Sys2Proof.Machine

/-! ## The opcode table -/

/-- R61: a row compares all eight bits with the code of its command. -/
theorem opcodeTable_row {row : OpcodeRow} (h : row ∈ opcodeTable) :
    row.mask = BitVec.allOnes 8 ∧ row.pattern = encode row.instr := by
  have hall : ∀ row ∈ opcodeTable, row.mask = BitVec.allOnes 8 ∧ row.pattern = encode row.instr := by decide
  exact hall row h

/-- R61: the code of a command decodes to it. -/
theorem decode_encode (i : Instr) : decode (encode i) = .ok i := by
  cases i <;> rfl

/-- R61: a byte that decodes to a command is its code, since the row that matched compares all eight bits. -/
theorem encode_of_decode {c : Byte} {i : Instr} (h : decode c = .ok i) : encode i = c := by
  unfold decode at h
  split at h
  · next row hrow =>
    obtain ⟨hmask, hpattern⟩ := opcodeTable_row (List.mem_of_find?_eq_some hrow)
    have hmatch : c = row.pattern := by
      have hbits := List.find?_some hrow
      rwa [hmask, BitVec.and_allOnes, beq_iff_eq] at hbits
    rw [← Except.ok.inj h, ← hpattern, hmatch]
  · cases h

/-- Settles O1: the six codes are those of `encode`, and no row matches a byte behind them. -/
theorem commandBytesDecodeAsTheTableSays : Obligations.CommandBytesDecodeAsTheTableSays :=
  ⟨decode_encode .nop, decode_encode .expand, decode_encode .encrypt, decode_encode .decrypt,
    decode_encode .gfmul, decode_encode .clear, fun _ => decode_of_illegal⟩

/-- Settles O2: the two directions of the round trip. -/
theorem encodingAndDecodingAgree : Obligations.EncodingAndDecodingAgree :=
  ⟨decode_encode, fun _ _ => encode_of_decode⟩

/-! ## Exchanging register writes -/

/-- Setting two different locations gives the same registers in either order. -/
theorem Regs.set_comm (r : Regs) {loc other : Reg} (h : loc ≠ other) (v w : Byte) :
    (r.set loc v).set other w = (r.set other w).set loc v := by
  cases loc with
  | din i =>
    cases other with
    | din j =>
      have hij : i.val ≠ j.val := fun he => h (congrArg Reg.din (Fin.ext he))
      simp only [Regs.set, Vector.set_comm v w hij]
    | _ => rfl
  | key i =>
    cases other with
    | key j =>
      have hij : i.val ≠ j.val := fun he => h (congrArg Reg.key (Fin.ext he))
      simp only [Regs.set, Vector.set_comm v w hij]
    | _ => rfl
  | _ => cases other <;> simp_all [Regs.set]

/-- R45: whether a write is ignored, and which location it sets, depends on the address alone. -/
theorem writeByte_ignored_or_sets (a : Addr) :
    (∀ (r : Regs) (v : Byte), r.writeByte a v = r) ∨
      ∃ loc, regAt a = some loc ∧ ∀ (r : Regs) (v : Byte), r.writeByte a v = r.set loc v := by
  cases ha : regAt a with
  | none => exact .inl fun r v => by simp only [Regs.writeByte, ha]
  | some loc =>
    by_cases hw : loc.hostWritable = true
    · exact .inr ⟨loc, rfl, fun r v => by simp only [Regs.writeByte, ha, if_pos hw]⟩
    · exact .inl fun r v => by simp only [Regs.writeByte, ha, if_neg hw]

/-- Settles O16: an ignored write exchanges with any other, and two others set different locations. -/
theorem operandWritesCommute : Obligations.OperandWritesCommute := by
  intro r a b v w hab
  rcases writeByte_ignored_or_sets a with ha | ⟨loc, hloc, ha⟩
  · rw [ha, ha]
  · rcases writeByte_ignored_or_sets b with hb | ⟨other, hother, hb⟩
    · rw [hb, hb]
    · have hne : loc ≠ other := by
        rintro rfl
        exact hab (regAt_inj hloc hother)
      rw [ha, hb, hb, ha, r.set_comm hne]

/-! ## The frame of every command -/

/-- The locations that record how a command ended (R160, R170). -/
abbrev Reg.IsStatus (loc : Reg) : Prop := loc = .status ∨ loc = .errcode

/-- The locations that hold and describe the schedule (R19, R21, R22). -/
abbrev Reg.IsSchedule (loc : Reg) : Prop := loc = .rounds ∨ loc = .rklen ∨ ∃ i, loc = .rk i

/-- The locations of the output block (R16). -/
abbrev Reg.IsDout (loc : Reg) : Prop := ∃ i, loc = .dout i

/-- The locations of the result registers of a command (R66); CLEAR writes every one (R157). -/
def Reg.WrittenBy (loc : Reg) (i : Instr) : Prop :=
  match i with
  | .nop => False
  | .expand => loc.IsStatus ∨ loc.IsSchedule
  | .encrypt | .decrypt => (loc.IsStatus ∨ loc.IsSchedule) ∨ loc.IsDout
  | .gfmul => loc.IsStatus ∨ loc = .gfp
  | .clear => True

section
variable (r : Regs) {loc : Reg}

/-! What each update leaves at the other locations. -/

theorem Regs.get_raise (e : CommandError) (h : ¬ loc.IsStatus) : (r.raise e).get loc = r.get loc := by
  cases loc <;> simp_all [Regs.get]

theorem Regs.get_succeed (h : ¬ loc.IsStatus) : r.succeed.get loc = r.get loc := by
  cases loc <;> simp_all [Regs.get]

theorem Regs.get_storeSchedule (ks : KeySize) (w : List Byte) (h : ¬ loc.IsSchedule) :
    (r.storeSchedule ks w).get loc = r.get loc := by
  cases loc <;> simp_all [Regs.get]

theorem Regs.get_setDout (b : Block) (h : ¬ loc.IsDout) : (r.setDout b).get loc = r.get loc := by
  cases loc <;> simp_all [Regs.get]

theorem Regs.get_setGfp (v : Byte) (h : loc ≠ .gfp) : (r.setGfp v).get loc = r.get loc := by
  cases loc <;> simp_all [Regs.get]

/-- R157: after CLEAR every location holds 0x00. -/
theorem Regs.get_cleared (loc : Reg) : r.cleared.get loc = 0x00 := by
  cases loc <;> simp [Regs.get]

/-- The frame that the key commands share leaves a location that neither it nor `f` writes. -/
theorem Regs.get_runKeyCommand {f : KeySize → List Byte → Regs → Regs} (hs : ¬ loc.IsStatus)
    (hk : ¬ loc.IsSchedule) (hf : ∀ ks w r, (f ks w r).get loc = r.get loc) :
    (r.runKeyCommand f).get loc = r.get loc := by
  rcases runKeyCommand_cases r f with ⟨-, hr⟩ | ⟨ks, -, hr⟩
  · rw [hr, r.get_raise _ hs]
  · rw [hr, Regs.get_succeed _ hs, hf, r.get_storeSchedule _ _ hk]

/-- R66: a command leaves every location outside its result registers. -/
theorem Regs.get_commandResult {i : Instr} (h : ¬ loc.WrittenBy i) :
    (commandResult i r).get loc = r.get loc := by
  cases i with
  | nop => rfl
  | expand =>
    obtain ⟨hs, hk⟩ := not_or.mp h
    exact r.get_runKeyCommand hs hk fun _ _ _ => rfl
  | encrypt | decrypt =>
    obtain ⟨hsk, hd⟩ := not_or.mp h
    obtain ⟨hs, hk⟩ := not_or.mp hsk
    exact r.get_runKeyCommand hs hk fun _ _ r => r.get_setDout _ hd
  | gfmul =>
    obtain ⟨hs, hg⟩ := not_or.mp h
    exact (Regs.get_succeed _ hs).trans (r.get_setGfp _ hg)
  | clear => exact absurd trivial h

/-- R66 at the port: an address reads as before when no result register of the command is there. -/
theorem Regs.readByte_commandResult {i : Instr} {a : Addr} (h : ∀ loc, addrOf loc = a → ¬ loc.WrittenBy i) :
    (commandResult i r).readByte a = r.readByte a :=
  Regs.readByte_congr fun loc hloc => r.get_commandResult (h loc (addrOf_of_regAt hloc))

/-- R157 at the port: after CLEAR every address reads 0x00. -/
theorem Regs.readByte_cleared (a : Addr) : r.cleared.readByte a = 0x00 := by
  cases ha : regAt a with
  | none => exact Regs.readByte_of_unassigned _ (regAt_eq_none_iff.mp ha)
  | some loc => rw [← addrOf_of_regAt ha, Regs.readByte_addrOf, r.get_cleared]

end

/-! Where the result registers are (R41). -/

theorem Reg.addrOf_of_isStatus {loc : Reg} (h : loc.IsStatus) : addrOf loc = 0x001 ∨ addrOf loc = 0x003 := by
  rcases h with rfl | rfl
  · exact .inl rfl
  · exact .inr rfl

theorem Reg.addrOf_of_isSchedule {loc : Reg} (h : loc.IsSchedule) :
    (0x004 ≤ (addrOf loc).toNat ∧ (addrOf loc).toNat ≤ 0x005) ∨
      (0x100 ≤ (addrOf loc).toNat ∧ (addrOf loc).toNat ≤ 0x1EF) := by
  rcases h with rfl | rfl | ⟨i, rfl⟩
  · decide
  · decide
  · simp only [addrOf, BitVec.toNat_ofNat]
    omega

theorem Reg.addrOf_of_isDout {loc : Reg} (h : loc.IsDout) :
    0x020 ≤ (addrOf loc).toNat ∧ (addrOf loc).toNat ≤ 0x02F := by
  obtain ⟨i, rfl⟩ := h
  simp only [addrOf, BitVec.toNat_ofNat]
  omega

/-- Outside 0x001, 0x003 to 0x005 and 0x100 to 0x1EF there is nothing that EXPAND writes. -/
theorem Reg.not_status_or_schedule {loc : Reg} (h1 : addrOf loc ≠ 0x001)
    (h3 : ¬ (0x003 ≤ (addrOf loc).toNat ∧ (addrOf loc).toNat ≤ 0x005))
    (hrk : ¬ (0x100 ≤ (addrOf loc).toNat ∧ (addrOf loc).toNat ≤ 0x1EF)) :
    ¬ (loc.IsStatus ∨ loc.IsSchedule) := by
  rintro (hs | hk)
  · refine (addrOf_of_isStatus hs).elim h1 fun he => h3 ?_
    rw [he]
    decide
  · have := addrOf_of_isSchedule hk
    omega

/-- Settles O29: where the result registers of each command are not, its frame holds. -/
theorem commandsChangeOnlyTheirResults : Obligations.CommandsChangeOnlyTheirResults := by
  intro s t i h
  rw [exec_next h]
  refine ⟨rfl, rfl, fun a => ⟨?_, ?_, ?_, ?_, ?_⟩⟩
  · rintro rfl
    rfl
  · rintro rfl h1 h3 h8
    refine s.regs.readByte_commandResult ?_
    rintro loc rfl (hs | rfl)
    · exact (Reg.addrOf_of_isStatus hs).elim h1 h3
    · exact h8 rfl
  · rintro rfl h1 h3 hrk
    refine s.regs.readByte_commandResult ?_
    rintro loc rfl
    exact Reg.not_status_or_schedule h1 h3 hrk
  · intro hi h1 h3 hdout hrk
    have hout : ∀ loc, addrOf loc = a → ¬ ((loc.IsStatus ∨ loc.IsSchedule) ∨ loc.IsDout) := by
      rintro loc rfl
      exact not_or.mpr ⟨Reg.not_status_or_schedule h1 h3 hrk, fun hd => hdout (Reg.addrOf_of_isDout hd)⟩
    rcases hi with rfl | rfl
    · exact s.regs.readByte_commandResult hout
    · exact s.regs.readByte_commandResult hout
  · rintro rfl
    exact s.regs.readByte_cleared a

end Sys2Proof.Machine
end

section
/-! PROOFS. The statements about field arithmetic (spec/40_gf_arithmetic.md). A byte is evaluated at an element
`x` of an algebra over the field of two elements; the unit's operations are the ring's operations on these values
as soon as `x` is a root of the reduction polynomial. At the variable the value is the byte's polynomial, and at
the adjoined root it is the byte as an element of the quotient ring, where the laws of a ring are at hand. -/

namespace Sys2Proof.Machine

open Polynomial Finset

/-! ## The value of a byte at a ring element -/

section
variable {R : Type*} [CommRing R]

/-- The sum of `x ^ k` over the set bits `k` of a byte (R7). -/
def byteEval (x : R) (v : Byte) : R := ∑ k ∈ range 8, if v.getLsbD k then x ^ k else 0

theorem byteEval_zero (x : R) : byteEval x 0x00 = 0 := by simp [byteEval]

theorem byteEval_one (x : R) : byteEval x 0x01 = 1 := by simp [byteEval]

theorem byteEval_two (x : R) : byteEval x 0x02 = x := by simp [byteEval, sum_range_succ]

theorem byteEval_polyLow (x : R) : byteEval x polyLow = 1 + x + x ^ 3 + x ^ 4 := by
  simp [byteEval, polyLow, sum_range_succ]

/-- The shift multiplies by `x` and drops the bit that would stand at `x ^ 8`. -/
theorem byteEval_shiftLeft (x : R) (a : Byte) :
    byteEval x (a <<< 1) + (if a.getLsbD 7 then x ^ 8 else 0) = x * byteEval x a := by
  have hlow : byteEval x (a <<< 1) = ∑ k ∈ range 7, if a.getLsbD k then x ^ (k + 1) else 0 := by
    rw [byteEval, sum_range_succ']
    refine (add_eq_left.mpr (by simp)).trans (sum_congr rfl fun k hk => ?_)
    have hk : k + 1 < 8 := Nat.succ_lt_succ (mem_range.mp hk)
    simp [hk, -BitVec.getLsbD_eq_getElem]
  have hall : x * byteEval x a = ∑ k ∈ range 8, if a.getLsbD k then x ^ (k + 1) else 0 := by
    simp only [byteEval, mul_sum, mul_ite, mul_zero, pow_succ']
  rw [hlow, hall, sum_range_succ _ 7]

variable [Algebra (ZMod 2) R] {x : R}

/-- R83: exclusive or is addition, since 1 + 1 = 0. -/
theorem byteEval_xor (x : R) (a b : Byte) : byteEval x (a ^^^ b) = byteEval x a + byteEval x b := by
  simp only [byteEval, ← sum_add_distrib, BitVec.getLsbD_xor]
  refine sum_congr rfl fun k _ => ?_
  cases a.getLsbD k <;> cases b.getLsbD k <;> simp [ZModModule.add_self]

/-- R82: `xtime` multiplies by a root `x` of the reduction polynomial: the bit shifted out counts `x ^ 8`. -/
theorem byteEval_xtime (hx : x ^ 8 = x ^ 4 + x ^ 3 + x + 1) (a : Byte) :
    byteEval x (xtime a) = x * byteEval x a := by
  rw [← byteEval_shiftLeft, xtime]
  split
  · rw [byteEval_xor, byteEval_polyLow, hx]
    ring
  · rw [add_zero]

/-- The loop of R80 with `n` iterations left adds `a` times the low `n` bits of `b` to the accumulator. -/
theorem byteEval_mulLoop (hx : x ^ 8 = x ^ 4 + x ^ 3 + x + 1) (n : Nat) (p a b : Byte) :
    byteEval x (mulLoop n p a b) =
      byteEval x p + byteEval x a * ∑ k ∈ range n, if b.getLsbD k then x ^ k else 0 := by
  induction n generalizing p a b with
  | zero => simp [mulLoop]
  | succ n ih =>
    have hacc : byteEval x (if b.getLsbD 0 then p ^^^ a else p) =
        byteEval x p + byteEval x a * (if b.getLsbD 0 then 1 else 0) := by
      split <;> simp [byteEval_xor]
    have hrest : (∑ k ∈ range n, if b.getLsbD (k + 1) then x ^ (k + 1) else 0) =
        x * ∑ k ∈ range n, if (b >>> 1).getLsbD k then x ^ k else 0 := by
      simp only [mul_sum, mul_ite, mul_zero, pow_succ', BitVec.getLsbD_ushiftRight, add_comm 1]
    calc byteEval x (mulLoop (n + 1) p a b)
        = byteEval x (mulLoop n (if b.getLsbD 0 then p ^^^ a else p) (xtime a) (b >>> 1)) := rfl
      _ = _ := by
        rw [ih, hacc, byteEval_xtime hx, sum_range_succ', hrest, pow_zero]
        ring

/-- R80: `mul` multiplies the values of its operands. -/
theorem byteEval_mul (hx : x ^ 8 = x ^ 4 + x ^ 3 + x + 1) (a b : Byte) :
    byteEval x (mul a b) = byteEval x a * byteEval x b := by
  have hloop := byteEval_mulLoop hx 8 0x00 a b
  rwa [byteEval_zero, zero_add] at hloop

end

/-! ## The polynomial of a byte -/

/-- The reduction polynomial x^8+x^4+x^3+x+1 (R80). -/
noncomputable def reductionPoly : (ZMod 2)[X] := X ^ 8 + X ^ 4 + X ^ 3 + X + 1

theorem reductionPoly_natDegree : reductionPoly.natDegree = 8 := by
  unfold reductionPoly
  compute_degree!

theorem reductionPoly_monic : reductionPoly.Monic := by
  unfold reductionPoly
  monicity!

/-- A byte's polynomial has degree below 8, so it is its own remainder. -/
theorem byteEval_X_modByMonic (v : Byte) : byteEval X v %ₘ reductionPoly = byteEval X v := by
  rw [modByMonic_eq_self_iff reductionPoly_monic, degree_eq_natDegree reductionPoly_monic.ne_zero,
    reductionPoly_natDegree, ← mem_degreeLT]
  refine Submodule.sum_mem _ fun k hk => ?_
  split
  · rw [mem_degreeLT, degree_X_pow]
    exact_mod_cast mem_range.mp hk
  · exact zero_mem _

/-- The coefficients of a byte's polynomial are its bits. -/
theorem byteEval_X_coeff (v : Byte) {k : Nat} (hk : k < 8) :
    (byteEval X v : (ZMod 2)[X]).coeff k = if v.getLsbD k then 1 else 0 := by
  simp only [byteEval, finsetSum_coeff, apply_ite (coeff · k), coeff_X_pow, coeff_zero]
  rw [sum_eq_single_of_mem k (mem_range.mpr hk) fun j _ hj => by simp [hj.symm]]
  simp

theorem byteEval_X_injective : Function.Injective (byteEval (X : (ZMod 2)[X])) := by
  intro a b h
  refine BitVec.eq_of_getLsbD_eq fun k hk => ?_
  have hcoeff := congrArg (coeff · k) h
  simp only [byteEval_X_coeff _ hk] at hcoeff
  cases ha : a.getLsbD k <;> cases hb : b.getLsbD k <;> simp_all

/-! ## The field element of a byte -/

/-- The root that the reduction polynomial is given in the quotient ring. -/
noncomputable abbrev fieldRoot : AdjoinRoot reductionPoly := AdjoinRoot.root reductionPoly

/-- A byte as an element of the quotient ring. -/
noncomputable def fieldValue (v : Byte) : AdjoinRoot reductionPoly := byteEval fieldRoot v

/-- The element is the class of the byte's polynomial. -/
theorem fieldValue_eq_mk (v : Byte) : fieldValue v = AdjoinRoot.mk reductionPoly (byteEval X v) := by
  simp only [fieldValue, byteEval, map_sum, apply_ite (AdjoinRoot.mk reductionPoly), map_pow, AdjoinRoot.mk_X,
    map_zero]

/-- R80: what the bit shifted out folds to. -/
theorem fieldRoot_pow_eight : fieldRoot ^ 8 = fieldRoot ^ 4 + fieldRoot ^ 3 + fieldRoot + 1 := by
  have hroot : AdjoinRoot.mk reductionPoly (X ^ 8 + X ^ 4 + X ^ 3 + X + 1) = 0 := AdjoinRoot.mk_self
  simp only [map_add, map_pow, map_one, AdjoinRoot.mk_X, add_assoc] at hroot
  simpa only [add_assoc, ZModModule.neg_eq_self] using eq_neg_of_add_eq_zero_left hroot

theorem fieldValue_zero : fieldValue 0x00 = 0 := byteEval_zero _

theorem fieldValue_one : fieldValue 0x01 = 1 := byteEval_one _

theorem fieldValue_two : fieldValue 0x02 = fieldRoot := byteEval_two _

@[simp] theorem fieldValue_xor (a b : Byte) : fieldValue (a ^^^ b) = fieldValue a + fieldValue b :=
  byteEval_xor _ a b

@[simp] theorem fieldValue_mul (a b : Byte) : fieldValue (mul a b) = fieldValue a * fieldValue b :=
  byteEval_mul fieldRoot_pow_eight a b

@[simp] theorem fieldValue_xtime (a : Byte) : fieldValue (xtime a) = fieldRoot * fieldValue a :=
  byteEval_xtime fieldRoot_pow_eight a

/-- Bytes of one class have polynomials with one remainder, and a byte's polynomial is its own remainder. -/
theorem fieldValue_injective : Function.Injective fieldValue := by
  intro a b h
  rw [fieldValue_eq_mk, fieldValue_eq_mk, AdjoinRoot.mk_eq_mk] at h
  have hrem := modByMonic_eq_of_dvd_sub reductionPoly_monic h
  rw [byteEval_X_modByMonic, byteEval_X_modByMonic] at hrem
  exact byteEval_X_injective hrem

/-- Settles O37: the product and `mul` are in one class, so they have one remainder. -/
theorem mulIsThePolynomialProduct : Obligations.MulIsThePolynomialProduct := by
  intro a b
  have hdvd : reductionPoly ∣ byteEval X a * byteEval X b - byteEval X (mul a b) := by
    rw [← AdjoinRoot.mk_eq_mk, map_mul]
    simp only [← fieldValue_eq_mk, fieldValue_mul]
  exact (modByMonic_eq_of_dvd_sub reductionPoly_monic hdvd).trans (byteEval_X_modByMonic _)

/-! ## The laws of a field -/

/-- The power `a ^ 254`, the inverse of a non-zero element of a field of 256 elements. -/
def fermatInverse (a : Byte) : Byte :=
  let square := fun v => mul v v
  let a2 := square a
  let a3 := mul a2 a
  let a12 := square (square a3)
  let a240 := square (square (square (square (mul a12 a3))))
  mul a240 (mul a12 a2)

/-- R81: evaluated for all bytes, as the rule itself was confirmed. -/
theorem mul_fermatInverse : ∀ a : Byte, a ≠ 0x00 → mul a (fermatInverse a) = 0x01 := by decide +kernel

/-- A product 1 is a pair of inverses in the ring. -/
theorem fieldValue_mul_eq_one {a b : Byte} (h : mul a b = 0x01) : fieldValue a * fieldValue b = 1 := by
  rw [← fieldValue_mul, h, fieldValue_one]

theorem mul_comm_byte (a b : Byte) : mul a b = mul b a :=
  fieldValue_injective (by simp [mul_comm])

/-- Settles O38: the laws of the ring, with the power `a ^ 254` as the inverse. -/
theorem mulObeysTheFieldLaws : Obligations.MulObeysTheFieldLaws := by
  refine ⟨fun a => ⟨?_, ?_⟩, mul_comm_byte, fun a b c => ?_, fun a b c => ?_, fun a ha => ?_⟩
  · exact fieldValue_injective (by rw [fieldValue_mul, fieldValue_zero, mul_zero])
  · exact fieldValue_injective (by rw [fieldValue_mul, fieldValue_one, mul_one])
  · exact fieldValue_injective (by simp [mul_assoc])
  · exact fieldValue_injective (by simp [mul_add])
  · have hinv := mul_fermatInverse a ha
    refine ⟨fermatInverse a, hinv, fun z hz => fieldValue_injective ?_⟩
    rw [mul_comm_byte] at hz
    exact left_inv_eq_right_inv (fieldValue_mul_eq_one hz) (fieldValue_mul_eq_one hinv)

/-! ## GFMUL, doubling and the constants of the mix steps -/

/-- Settles O22: the next state of GFMUL that `exec_eq` gives. -/
theorem gfmulWritesTheProduct : Obligations.GfmulWritesTheProduct := exec_eq .gfmul

theorem mul_one_left (x : Byte) : mul 0x01 x = x :=
  fieldValue_injective (by rw [fieldValue_mul, fieldValue_one, one_mul])

/-- R82: the byte 0x02 is the root by which `xtime` multiplies. -/
theorem mul_two_left (x : Byte) : mul 0x02 x = xtime x :=
  fieldValue_injective (by rw [fieldValue_mul, fieldValue_two, fieldValue_xtime])

theorem mul_xor_left (a b x : Byte) : mul (a ^^^ b) x = mul a x ^^^ mul b x :=
  fieldValue_injective (by simp [add_mul])

theorem mul_xtime_left (a x : Byte) : mul (xtime a) x = xtime (mul a x) :=
  fieldValue_injective (by simp [mul_assoc])

/-- Settles O39: the definition, and the law for both orders. -/
theorem xtimeIsMultiplicationByTwo : Obligations.XtimeIsMultiplicationByTwo := fun x =>
  ⟨rfl, (mul_two_left x).symm.trans (mul_comm_byte 0x02 x), (mul_two_left x).symm⟩

/-- Settles O40: each constant is a sum of 0x01 and its doublings. -/
theorem mixConstantsInTermsOfXtime : Obligations.MixConstantsInTermsOfXtime := by
  intro x
  have h01 := mul_one_left x
  have h02 := mul_two_left x
  have h04 : mul 0x04 x = xtime (xtime x) := (mul_xtime_left 0x02 x).trans (congrArg xtime h02)
  have h08 : mul 0x08 x = xtime (xtime (xtime x)) := (mul_xtime_left 0x04 x).trans (congrArg xtime h04)
  have h0A : mul 0x0A x = xtime (xtime (xtime x)) ^^^ xtime x :=
    (mul_xor_left 0x08 0x02 x).trans (by rw [h08, h02])
  have h0C : mul 0x0C x = xtime (xtime (xtime x)) ^^^ xtime (xtime x) :=
    (mul_xor_left 0x08 0x04 x).trans (by rw [h08, h04])
  refine ⟨h01, h02, ?_, ?_, ?_, ?_, ?_⟩
  · exact (mul_xor_left 0x02 0x01 x).trans (by rw [h02, h01])
  · exact (mul_xor_left 0x08 0x01 x).trans (by rw [h08, h01])
  · exact (mul_xor_left 0x0A 0x01 x).trans (by rw [h0A, h01])
  · exact (mul_xor_left 0x0C 0x01 x).trans (by rw [h0C, h01])
  · exact (mul_xor_left 0x0C 0x02 x).trans (by rw [h0C, h02])

end Sys2Proof.Machine
end

section
/-! PROOFS. The statements about the tables and the state functions built on them (spec/41_tables.md). What the
spec itself confirmed by checking all entries of a table is evaluated here over all entries; the laws of the state
functions follow from it byte by byte. -/

namespace Sys2Proof.Machine

/-! ## The S-boxes -/

/-- R92: the law that the rule checks for every byte. -/
theorem invSbox_leftInverse : Function.LeftInverse invSbox sbox := by
  have hall : ∀ x : Byte, invSbox (sbox x) = x := by decide +kernel
  exact hall

/-- R92: the forward S-box is one-to-one on a finite set, so it is a permutation and the law holds in the other
order too. -/
theorem invSbox_rightInverse : Function.RightInverse invSbox sbox :=
  invSbox_leftInverse.rightInverse_of_surjective
    (Finite.surjective_of_injective invSbox_leftInverse.injective)

@[simp] theorem invSbox_sbox (x : Byte) : invSbox (sbox x) = x := invSbox_leftInverse x

@[simp] theorem sbox_invSbox (x : Byte) : sbox (invSbox x) = x := invSbox_rightInverse x

/-- R92: no fixed point and no opposite fixed point, checked for every byte. -/
theorem sbox_ne_self_and_ne_complement : ∀ x : Byte, sbox x ≠ x ∧ sbox x ≠ x ^^^ 0xFF := by decide +kernel

/-- Settles O41: both orders of the inverse law, and the two kinds of fixed points. -/
theorem sboxesAreInverse : Obligations.SboxesAreInverse := fun x =>
  ⟨invSbox_sbox x, sbox_invSbox x, sbox_ne_self_and_ne_complement x⟩

/-! ## The construction of the forward S-box -/

/-- R93: the table of R90 against its construction, read backwards: the byte whose entry is `affine y` has `y`
for its inverse. -/
theorem mul_invSbox_affine : ∀ y : Byte, y ≠ 0x00 → mul (invSbox (affine y)) y = 0x01 := by decide +kernel

theorem ne_zero_of_mul_eq_one {x y : Byte} (h : mul x y = 0x01) : y ≠ 0x00 := by
  rintro rfl
  have hzero : mul x 0x00 = 0x00 := fieldValue_injective (by rw [fieldValue_mul, fieldValue_zero, mul_zero])
  exact absurd (hzero.symm.trans h) (by decide)

/-- R81: a byte is the inverse of one byte only. -/
theorem eq_of_mul_eq_one {x z y : Byte} (hx : mul x y = 0x01) (hz : mul z y = 0x01) : x = z := by
  rw [mul_comm_byte] at hz
  exact fieldValue_injective (left_inv_eq_right_inv (fieldValue_mul_eq_one hx) (fieldValue_mul_eq_one hz))

theorem sbox_eq_affine_of_mul_eq_one {x y : Byte} (h : mul x y = 0x01) : sbox x = affine y := by
  rw [eq_of_mul_eq_one h (mul_invSbox_affine y (ne_zero_of_mul_eq_one h)), sbox_invSbox]

/-- R93: the bit of a rotated byte, the index counted on the circle of 8 bits. -/
theorem rotl8_getLsbD (b : Byte) {k j i : Nat} (hkj : k + j = 8) (hi : i < 8) :
    (rotl8 b k).getLsbD i = b.getLsbD ((i + j) % 8) := by
  obtain rfl : j = 8 - k := by omega
  simp only [rotl8, BitVec.getLsbD_or, BitVec.getLsbD_shiftLeft, BitVec.getLsbD_ushiftRight]
  by_cases hik : i < k
  · have hidx : (i + (8 - k)) % 8 = 8 - k + i := by omega
    simp [hik, hidx]
  · have hidx : (i + (8 - k)) % 8 = i - k := by omega
    have hout : b.getLsbD (8 - k + i) = false := b.getLsbD_of_ge _ (by omega)
    simp [hik, hi, hidx, hout]

/-- R93: the transform bit by bit, one rotation for each bit that is added. -/
theorem affine_getLsbD (b : Byte) {i : Nat} (hi : i < 8) :
    (affine b).getLsbD i =
      (b.getLsbD i ^^ b.getLsbD ((i + 4) % 8) ^^ b.getLsbD ((i + 5) % 8) ^^ b.getLsbD ((i + 6) % 8) ^^
        b.getLsbD ((i + 7) % 8) ^^ (0x63 : Byte).getLsbD i) := by
  have h1 := rotl8_getLsbD b (k := 1) (j := 7) rfl hi
  have h2 := rotl8_getLsbD b (k := 2) (j := 6) rfl hi
  have h3 := rotl8_getLsbD b (k := 3) (j := 5) rfl hi
  have h4 := rotl8_getLsbD b (k := 4) (j := 4) rfl hi
  simp only [affine, BitVec.getLsbD_xor, h1, h2, h3, h4]
  simp only [Bool.xor_assoc, Bool.xor_comm, Bool.xor_left_comm]

/-- Settles O42: the entry of 0, the inverse of a non-zero byte and its entry, the bits of the transform, and the
law of R92. -/
theorem sboxIsTheAffineTransformOfTheInverse : Obligations.SboxIsTheAffineTransformOfTheInverse :=
  ⟨by decide, fun x hx => ⟨fermatInverse x, mul_fermatInverse x hx⟩,
    fun _ _ hxy => sbox_eq_affine_of_mul_eq_one hxy, fun b _ hi => affine_getLsbD b hi, sbox_invSbox⟩

/-! ## The row-shift tables -/

/-- R95: column `c` of row `r` comes from column `c + r`. -/
theorem shiftTable_eq_rotation : ∀ i : Fin 16,
    (shiftTable[i.val]).val = i.val % 4 + 4 * ((i.val / 4 + i.val % 4) % 4) := by decide

/-- R96: column `c` of row `r` comes from column `c - r`. -/
theorem ishiftTable_eq_rotation : ∀ i : Fin 16,
    (ishiftTable[i.val]).val = i.val % 4 + 4 * ((i.val / 4 + 4 - i.val % 4) % 4) := by decide

/-- R100: rotating a row forth and back keeps the row and adds nothing to the column. -/
@[simp] theorem ishiftTable_shiftTable {i : Nat} (hi : i < 16) :
    ishiftTable[(shiftTable[i]).val] = ⟨i, hi⟩ := by
  refine Fin.ext ?_
  have hs := shiftTable_eq_rotation ⟨i, hi⟩
  have hr := ishiftTable_eq_rotation (shiftTable[i])
  dsimp only at hs hr ⊢
  omega

@[simp] theorem shiftTable_ishiftTable {i : Nat} (hi : i < 16) :
    shiftTable[(ishiftTable[i]).val] = ⟨i, hi⟩ := by
  refine Fin.ext ?_
  have hr := ishiftTable_eq_rotation ⟨i, hi⟩
  have hs := shiftTable_eq_rotation (ishiftTable[i])
  dsimp only at hs hr ⊢
  omega

/-- Settles O43: the two formulas, and the inverse law in both orders. -/
theorem rowShiftTablesFollowTheRotation : Obligations.RowShiftTablesFollowTheRotation := fun i =>
  ⟨shiftTable_eq_rotation i, ishiftTable_eq_rotation i, ishiftTable_shiftTable i.isLt,
    shiftTable_ishiftTable i.isLt⟩

/-! ## The state functions -/

section
variable (st : Block)

@[simp] theorem invSubBytes_subBytes : invSubBytes (subBytes st) = st := by
  ext i hi : 1
  simp only [invSubBytes_getElem, subBytes_getElem, invSbox_sbox]

@[simp] theorem subBytes_invSubBytes : subBytes (invSubBytes st) = st := by
  ext i hi : 1
  simp only [invSubBytes_getElem, subBytes_getElem, sbox_invSbox]

@[simp] theorem invShiftRows_shiftRows : invShiftRows (shiftRows st) = st := by
  ext i hi : 1
  simp only [invShiftRows_getElem, shiftRows_getElem, shiftTable_ishiftTable hi]

@[simp] theorem shiftRows_invShiftRows : shiftRows (invShiftRows st) = st := by
  ext i hi : 1
  simp only [invShiftRows_getElem, shiftRows_getElem, ishiftTable_shiftTable hi]

/-- R125: a byte meets the same round-key byte twice. -/
@[simp] theorem addRoundKey_addRoundKey (w : List Byte) (r : Nat) :
    addRoundKey (addRoundKey st w r) w r = st := by
  ext i hi : 1
  simp only [addRoundKey_getElem, BitVec.xor_assoc, BitVec.xor_self, BitVec.xor_zero]

/-- R101: a substitution acts on each byte alone, so it does not matter where the byte stands. -/
theorem shiftRows_subBytes : shiftRows (subBytes st) = subBytes (shiftRows st) := by
  ext i hi : 1
  simp only [shiftRows_getElem, subBytes_getElem]

theorem invShiftRows_invSubBytes : invShiftRows (invSubBytes st) = invSubBytes (invShiftRows st) := by
  ext i hi : 1
  simp only [invShiftRows_getElem, invSubBytes_getElem]

end

/-- Settles O44: the laws of the three state steps. -/
theorem stateStepsAreUndoneByTheirInverses : Obligations.StateStepsAreUndoneByTheirInverses := fun st =>
  ⟨invSubBytes_subBytes st, subBytes_invSubBytes st, invShiftRows_shiftRows st, shiftRows_invShiftRows st,
    addRoundKey_addRoundKey st⟩

/-- Settles O45: the two commuting laws. -/
theorem substitutionCommutesWithRowShift : Obligations.SubstitutionCommutesWithRowShift := fun st =>
  ⟨shiftRows_subBytes st, invShiftRows_invSubBytes st⟩

end Sys2Proof.Machine
end

section
/-! PROOFS. The statements about the key schedule and the commands that compute it (spec/42_key_schedule.md). The
loop of R109 is compared once with its word steps run in order; the statements about the schedule are read off
from the bytes that a number of word steps leaves. -/

namespace Sys2Proof

/-- A size is a number of whole words (R117: `Nk = KS / 4`). -/
theorem KeySize.bytes_eq (ks : KeySize) : ks.bytes = 4 * (ks.bytes / 4) := by cases ks <;> rfl

/-- The iterations of one expansion (R111), counted in words and in bytes. -/
theorem KeySize.iterations_eq (ks : KeySize) : (ks.sched - ks.bytes) / 4 = 4 * ks.rounds - ks.bytes / 4 := by
  cases ks <;> rfl

namespace Machine

/-! ## The round constant and the core transform -/

/-- R105: one more round of the doubling loop doubles its result. -/
theorem doubled_succ (k : Nat) (c : Byte) : doubled (k + 1) c = xtime (doubled k c) := by
  induction k generalizing c with
  | zero => rfl
  | succ k ih => exact ih (xtime c)

theorem rcon_of_le {k : Nat} (h : k < 10) : rcon (k + 1) = doubled k 0x01 :=
  if_pos ⟨by omega, by omega⟩

/-- Settles O48: the ten values are computed, and the doubling is that of the loop. -/
theorem roundConstantsDouble : Obligations.RoundConstantsDouble := by
  refine ⟨by decide, fun j h1 h9 => ?_⟩
  obtain ⟨k, rfl⟩ : ∃ k, j = k + 1 := ⟨j - 1, by omega⟩
  rw [rcon_of_le (by omega), rcon_of_le (by omega), doubled_succ]

/-- Settles O49: byte `k` of the substituted word is the entry of byte `k + 1` of the word. -/
theorem keyCoreRotatesSubstitutesAndAddsTheConstant :
    Obligations.KeyCoreRotatesSubstitutesAndAddsTheConstant := by
  intro t j
  simp [keyCore, keyCoreWith, rotWord]

/-! ## Word steps run in order -/

section
variable (rc : Nat → Byte) (ks : KeySize) (key : List Byte)

/-- The bytes after `m` iterations of R109: the first `m` word steps run on the key. -/
def bytesAfter (m : Nat) : List Byte :=
  ((List.range' (ks.bytes / 4) m).map (wordStepAt ks)).foldl (appendWord rc ks) key

theorem bytesAfter_zero : bytesAfter rc ks key 0 = key := rfl

theorem bytesAfter_succ (m : Nat) :
    bytesAfter rc ks key (m + 1) =
      appendWord rc ks (bytesAfter rc ks key m) (wordStepAt ks (ks.bytes / 4 + m)) := by
  simp [bytesAfter, List.range'_1_concat]

/-- No word step changes what is there already (R109: each iteration appends). -/
theorem bytesAfter_prefix_add (m k : Nat) : bytesAfter rc ks key m <+: bytesAfter rc ks key (m + k) := by
  induction k with
  | zero => exact List.prefix_rfl
  | succ k ih =>
    rw [← Nat.add_assoc, bytesAfter_succ]
    exact ih.trans (List.prefix_append _ _)

theorem bytesAfter_prefix {m k : Nat} (h : m ≤ k) : bytesAfter rc ks key m <+: bytesAfter rc ks key k := by
  obtain ⟨d, rfl⟩ := Nat.exists_eq_add_of_le h
  exact bytesAfter_prefix_add rc ks key m d

end

/-! ## The loop of R109 -/

/-- The index of the core transform that the loop holds before word `i`: the number of the applications before it,
plus one. -/
def coreIndexBefore (ks : KeySize) (i : Nat) : Nat := (i + ks.bytes / 4 - 1) / (ks.bytes / 4)

theorem coreIndexBefore_seed (ks : KeySize) : coreIndexBefore ks (ks.bytes / 4) = 1 := by cases ks <;> rfl

/-- R116: application `j` of the core transform is at word `j * Nk`. -/
theorem iterationStep_eq (ks : KeySize) (i : Nat) :
    iterationStep ks (4 * i) (coreIndexBefore ks i) = wordStepAt ks i := by
  have h0 : 4 * i % ks.bytes = 0 ↔ i % (ks.bytes / 4) = 0 := by cases ks <;> simp <;> omega
  have h16 : ks = .k32 ∧ 4 * i % ks.bytes = 16 ↔ ks.bytes / 4 = 8 ∧ i % 8 = 4 := by cases ks <;> simp; omega
  have hj : i % (ks.bytes / 4) = 0 → coreIndexBefore ks i = i / (ks.bytes / 4) := by
    cases ks <;> simp [coreIndexBefore] <;> omega
  simp only [iterationStep, wordStepAt, h0, h16]
  split_ifs with h
  · rw [hj h]
  · rfl
  · rfl

/-- R116: the index advances with each application and with no other word. -/
theorem iterationIndex_eq (ks : KeySize) (i : Nat) :
    iterationIndex ks (4 * i) (coreIndexBefore ks i) = coreIndexBefore ks (i + 1) := by
  unfold iterationIndex coreIndexBefore
  split_ifs with h
  · cases ks <;> simp at h ⊢ <;> omega
  · cases ks <;> simp at h ⊢ <;> omega

section
variable {ks : KeySize} {key : List Byte} (hkey : key.length = ks.bytes)
include hkey

/-- R111: four bytes for each word. -/
theorem length_bytesAfter (rc : Nat → Byte) (m : Nat) :
    (bytesAfter rc ks key m).length = 4 * (ks.bytes / 4 + m) := by
  induction m with
  | zero => rw [bytesAfter_zero, hkey, Nat.add_zero, ← ks.bytes_eq]
  | succ m ih => rw [bytesAfter_succ, length_appendWord, ih]; omega

/-- The loop after `m` iterations inside the schedule: the bytes of `m` word steps, the offset of the next word and
the index of the next core transform. -/
theorem expandLoop_add (rc : Nat → Byte) (m k : Nat) (hm : ks.bytes / 4 + m ≤ 4 * ks.rounds) :
    expandLoop rc ks (m + k) key ks.bytes 1 =
      expandLoop rc ks k (bytesAfter rc ks key m) (4 * (ks.bytes / 4 + m))
        (coreIndexBefore ks (ks.bytes / 4 + m)) := by
  induction m generalizing k with
  | zero => rw [bytesAfter_zero, Nat.zero_add, Nat.add_zero, ← ks.bytes_eq, coreIndexBefore_seed]
  | succ m ih =>
    have hn : 4 * (ks.bytes / 4 + m) < ks.sched := by rw [ks.sched_eq]; omega
    rw [Nat.add_right_comm, Nat.add_assoc, ih (k + 1) (by omega),
      expandLoop_step _ rc ks k _ _ (length_bytesAfter hkey rc m) hn, iterationStep_eq, iterationIndex_eq,
      ← bytesAfter_succ]
    rfl

/-- `n` iterations of the loop are `n` word steps. -/
theorem expandLoop_eq_bytesAfter (rc : Nat → Byte) {n : Nat} (hn : ks.bytes / 4 + n ≤ 4 * ks.rounds) :
    expandLoop rc ks n key ks.bytes 1 = bytesAfter rc ks key n :=
  expandLoop_add hkey rc n 0 hn

/-- R111: the loop ends by its own test, after the iterations that complete the schedule. -/
theorem expandWith_eq_bytesAfter (rc : Nat → Byte) :
    expandWith rc ks key = bytesAfter rc ks key (4 * ks.rounds - ks.bytes / 4) := by
  obtain ⟨k, hk⟩ : ∃ k, 60 = (4 * ks.rounds - ks.bytes / 4) + k :=
    Nat.exists_eq_add_of_le (by cases ks <;> decide)
  have hend : ks.bytes / 4 + (4 * ks.rounds - ks.bytes / 4) = 4 * ks.rounds := by cases ks <;> rfl
  rw [expandWith, hk, expandLoop_add hkey rc _ k hend.le, hend, expandLoop_done]
  rw [ks.sched_eq]
  omega

end

/-- Settles O54: the word steps are those of all iterations. -/
theorem expansionRunsTheWordSteps : Obligations.ExpansionRunsTheWordSteps :=
  fun rc _ _ hkey => expandWith_eq_bytesAfter hkey rc

/-! ## The schedule -/

/-- Settles O50: the loop is its word steps, of four bytes each. -/
theorem expansionHasTheScheduleLength : Obligations.ExpansionHasTheScheduleLength := by
  intro ks key hkey
  have hwords : ks.bytes / 4 ≤ 4 * ks.rounds := by cases ks <;> decide
  have hexpand : expand ks key = bytesAfter rcon ks key (4 * ks.rounds - ks.bytes / 4) :=
    expandWith_eq_bytesAfter hkey rcon
  rw [ks.iterations_eq]
  refine ⟨?_, ?_, ?_, fun n hn => ?_⟩
  · rw [hexpand, length_bytesAfter hkey, ks.sched_eq]
    omega
  · rw [ks.sched_eq]
    omega
  · rw [hexpand, expandLoop_eq_bytesAfter hkey rcon (by omega)]
  · rw [expandLoop_eq_bytesAfter hkey rcon (by omega), length_bytesAfter hkey, Nat.mul_add, ← ks.bytes_eq]

/-- What the first word steps gave stands in the schedule. -/
theorem bytesAfter_prefix_expand {ks : KeySize} {key : List Byte} (hkey : key.length = ks.bytes) {m : Nat}
    (hm : m ≤ 4 * ks.rounds - ks.bytes / 4) : bytesAfter rcon ks key m <+: expand ks key := by
  rw [expand, expandWith_eq_bytesAfter hkey]
  exact bytesAfter_prefix rcon ks key hm

/-- Settles O51: the key is the bytes before the first word step. -/
theorem scheduleBeginsWithTheKey : Obligations.ScheduleBeginsWithTheKey := by
  intro ks key hkey
  have hprefix : key <+: expand ks key := bytesAfter_prefix_expand hkey (Nat.zero_le _)
  rw [← hkey]
  exact (List.prefix_iff_eq_take.mp hprefix).symm

/-- A word that lies inside the first bytes of a sequence is the word of those bytes. -/
theorem wordAt_of_prefix {v w : List Byte} (h : v <+: w) {n : Nat} (hn : n + 4 ≤ v.length) :
    wordAt w n = wordAt v n := by
  obtain ⟨u, rfl⟩ := h
  exact wordAt_append_of_le v u n hn

/-- The word that a word step appends (R109). -/
theorem wordAt_appendWord (rc : Nat → Byte) (ks : KeySize) (w : List Byte) (x : WordStep) :
    wordAt (appendWord rc ks w x) w.length =
      xorQuad (wordAt w (w.length - ks.bytes)) (applyWordStep rc x (wordAt w (w.length - 4))) :=
  wordAt_append_self w _

/-- R117 with the function `f` as a word step. -/
theorem wordAt_expand {ks : KeySize} {key : List Byte} (hkey : key.length = ks.bytes) {i : Nat}
    (hlo : ks.bytes / 4 ≤ i) (hhi : i < 4 * ks.rounds) :
    wordAt (expand ks key) (4 * i) =
      xorQuad (wordAt (expand ks key) (4 * (i - ks.bytes / 4)))
        (applyWordStep rcon (wordStepAt ks i) (wordAt (expand ks key) (4 * (i - 1)))) := by
  obtain ⟨m, rfl⟩ := Nat.exists_eq_add_of_le hlo
  have hpos : 0 < ks.bytes / 4 := by cases ks <;> decide
  have hbytes := ks.bytes_eq
  have hold : 4 * (ks.bytes / 4 + m) - ks.bytes = 4 * (ks.bytes / 4 + m - ks.bytes / 4) := by omega
  have hprev : 4 * (ks.bytes / 4 + m) - 4 = 4 * (ks.bytes / 4 + m - 1) := by omega
  have hlen := length_bytesAfter hkey rcon m
  have hbefore : bytesAfter rcon ks key m <+: expand ks key := bytesAfter_prefix_expand hkey (by omega)
  have hafter : bytesAfter rcon ks key (m + 1) <+: expand ks key := bytesAfter_prefix_expand hkey (by omega)
  have hnew := wordAt_appendWord rcon ks (bytesAfter rcon ks key m) (wordStepAt ks (ks.bytes / 4 + m))
  rw [← bytesAfter_succ, hlen, hold, hprev] at hnew
  rw [wordAt_of_prefix hafter (by rw [length_bytesAfter hkey]; omega), hnew,
    wordAt_of_prefix hbefore (by omega), wordAt_of_prefix hbefore (by omega)]

/-- Settles O52: the word step at index `i` is the function that R117 names. -/
theorem scheduleWordsObeyTheRecurrence : Obligations.ScheduleWordsObeyTheRecurrence := by
  intro ks key hkey i hlo hhi
  rw [wordAt_expand hkey hlo hhi]
  simp only [wordStepAt]
  split_ifs <;> rfl

/-! ## The round constants that are asked for -/

/-- The counts of R116: applications of the core transform in one expansion. -/
theorem coreIndices_wordSteps (ks : KeySize) :
    coreIndices (wordSteps ks) = List.range' 1 (match ks with | .k16 => 10 | .k24 => 8 | .k32 => 7) := by
  cases ks <;> decide

/-- A word step asks for no round constant but that of its own index. -/
theorem appendWord_congr {f g : Nat → Byte} (ks : KeySize) (w : List Byte) {steps : List WordStep}
    (h : ∀ j ∈ coreIndices steps, f j = g j) {x : WordStep} (hx : x ∈ steps) :
    appendWord f ks w x = appendWord g ks w x := by
  cases x with
  | core j =>
    have hj : j ∈ coreIndices steps := List.mem_filterMap.mpr ⟨.core j, hx, rfl⟩
    simp only [appendWord, applyWordStep, h j hj]
  | substitute => rfl
  | plain => rfl

/-- Settles O53: the indices in the list of word steps are the range. -/
theorem roundConstantIsAskedOnlyInRange : Obligations.RoundConstantIsAskedOnlyInRange := by
  intro f g ks key hkey hfg
  have hasked : ∀ j ∈ coreIndices (wordSteps ks), f j = g j := by
    intro j hj
    rw [coreIndices_wordSteps, List.mem_range'_1] at hj
    exact hfg j hj.1 (Nat.lt_one_add_iff.mp hj.2)
  rw [expansionRunsTheWordSteps f ks key hkey, expansionRunsTheWordSteps g ks key hkey]
  exact List.foldl_ext _ _ _ fun w x hx => appendWord_congr ks w hasked hx

/-! ## The commands that compute the schedule -/

/-- Settles O19: the two outcomes of a key command, for EXPAND. -/
theorem expandStoresTheSchedule : Obligations.ExpandStoresTheSchedule := by
  refine fun s => ⟨fun ks hks => ?_, fun hinv => ?_⟩
  · rw [exec_eq, commandResult_of_valid_size (.inl rfl) (keySizeOf_eq_some_iff.mpr hks)]
    simp only [Regs.keyCommandSuccess, keyCommandBlock, Regs.storeSchedule, Regs.setDout, Regs.succeed,
      scheduleMemory, Regs.keyOperand, statusSuccess, noError]
  · rw [exec_eq, commandResult_of_invalid_size (.inl rfl) (keySizeOf_eq_none_iff.mpr hinv)]
    rfl

/-- The key operand is read from `KEY` alone (R12). -/
theorem Regs.keyOperand_of_key_eq {r r' : Regs} (h : r'.key = r.key) (ks : KeySize) :
    r'.keyOperand ks = r.keyOperand ks := by
  rw [Regs.keyOperand, Regs.keyOperand, h]

/-- Settles O31: a key command that succeeds reads `KEY`, `KSIZE` and `DIN`, and EXPAND alone reads `DOUT`, which it
keeps. -/
theorem keyCommandsNeverUseAStoredSchedule : Obligations.KeyCommandsNeverUseAStoredSchedule := by
  intro s s' t t' i hi hkey hksize hdin hvalid h h'
  obtain ⟨ks, hks⟩ := validKeySize_iff.mp hvalid
  have hsize : keySizeOf s.regs.ksize = some ks := keySizeOf_eq_some_iff.mpr hks
  have hop : s'.regs.keyOperand ks = s.regs.keyOperand ks := Regs.keyOperand_of_key_eq hkey ks
  have hblock (w : List Byte) (he : i ≠ .expand) :
      keyCommandBlock i ks w s'.regs = keyCommandBlock i ks w s.regs := by
    rcases hi with rfl | rfl | rfl
    · exact absurd rfl he
    · simp only [keyCommandBlock, hdin]
    · simp only [keyCommandBlock, hdin]
  rw [exec_next h, exec_next h', commandResult_of_valid_size hi hsize,
    commandResult_of_valid_size hi (hksize ▸ hsize)]
  simpa [Regs.keyCommandSuccess, hop] using hblock _

/-- R128 to R130: each full round is its four steps in order. -/
theorem cipher_eq_foldl_forwardSteps (ks : KeySize) (w : List Byte) (block : Block) :
    cipher ks w block = (forwardSteps ks).foldl (applyRoundStep w) block := by
  simp only [forwardSteps, List.foldl_append, List.foldl_cons, List.foldl_nil, List.foldl_flatMap]
  rfl

/-- R141 to R143: each full inverse round is its four steps in order. -/
theorem inverseCipher_eq_foldl_inverseSteps (ks : KeySize) (w : List Byte) (block : Block) :
    inverseCipher ks w block = (inverseSteps ks).foldl (applyRoundStep w) block := by
  simp only [inverseSteps, List.foldl_append, List.foldl_cons, List.foldl_nil, List.foldl_flatMap]
  rfl

/-- A key command with a valid size stores the schedule `w` of the key operand and computes its block from it. -/
theorem exec_keyCommand_schedule {i : Instr} (hi : IsKeyCommand i) {ks : KeySize} {s : State} {w : List Byte}
    (hks : s.regs.ksize.toNat = ks.bytes) (hw : expand ks (s.regs.keyOperand ks) = w) :
    ∃ t : State, exec i s = .next t ∧ t.regs.rk = scheduleMemory ks w ∧
      t.regs.dout = keyCommandBlock i ks w s.regs := by
  refine ⟨_, exec_eq i s, ?_⟩
  rw [commandResult_of_valid_size hi (keySizeOf_eq_some_iff.mpr hks)]
  simp [Regs.keyCommandSuccess, hw]

/-- Settles O33: the counts are those of the lists, and a command that succeeds gives what running them gives. -/
theorem keyCommandWorkDependsOnKsizeAlone : Obligations.KeyCommandWorkDependsOnKsizeAlone := by
  intro ks
  refine ⟨by cases ks <;> rfl, coreIndices_wordSteps ks, by cases ks <;> decide, by cases ks <;> decide,
    by cases ks <;> decide, fun s hks => ?_⟩
  intro w
  have hw : expand ks (s.regs.keyOperand ks) = w :=
    expansionRunsTheWordSteps rcon ks _ (s.regs.length_keyOperand ks)
  obtain ⟨t, ht, hrk, -⟩ := exec_keyCommand_schedule (.inl rfl) hks hw
  obtain ⟨u, hu, hurk, hudout⟩ := exec_keyCommand_schedule (.inr (.inl rfl)) hks hw
  obtain ⟨v, hv, hvrk, hvdout⟩ := exec_keyCommand_schedule (.inr (.inr rfl)) hks hw
  exact ⟨⟨t, ht, hrk⟩,
    ⟨u, hu, hurk, hudout.trans (cipher_eq_foldl_forwardSteps ks w _)⟩,
    ⟨v, hv, hvrk, hvdout.trans (inverseCipher_eq_foldl_inverseSteps ks w _)⟩⟩

end Machine

end Sys2Proof
end

section
/-! PROOFS. The statements about the forward cipher and its command (spec/43_encrypt.md). A column is multiplied by
a column as polynomials in `y` modulo `y^4 + 1` with bytes for coefficients: both mix steps are such products, and
that they undo each other is one product of constants. The inverse list of round steps is the forward list reversed,
with each step replaced by its inverse; counts, round keys and the round trip follow from that. -/

namespace Sys2Proof

theorem KeySize.two_le_rounds (ks : KeySize) : 2 ≤ ks.rounds := by cases ks <;> decide

namespace Machine

/-! ## Columns as polynomials -/

/-- The product of two columns as polynomials in `y` modulo `y^4 + 1`, byte `k` the coefficient of `y^k`. -/
def columnMul (m s : Quad) : Quad :=
  #v[ mul m[0] s[0] ^^^ mul m[3] s[1] ^^^ mul m[2] s[2] ^^^ mul m[1] s[3],
      mul m[1] s[0] ^^^ mul m[0] s[1] ^^^ mul m[3] s[2] ^^^ mul m[2] s[3],
      mul m[2] s[0] ^^^ mul m[1] s[1] ^^^ mul m[0] s[2] ^^^ mul m[3] s[3],
      mul m[3] s[0] ^^^ mul m[2] s[1] ^^^ mul m[1] s[2] ^^^ mul m[0] s[3] ]

/-- The first column of the matrix of R126. -/
def mixConstants : Quad := #v[0x02, 0x01, 0x01, 0x03]

/-- The first column of the matrix of R140. -/
def invMixConstants : Quad := #v[0x0E, 0x09, 0x0D, 0x0B]

/-- Byte `k` of both sides sums the same products of three coefficients. -/
theorem columnMul_assoc (m n s : Quad) : columnMul (columnMul m n) s = columnMul m (columnMul n s) := by
  ext k hk : 1
  apply fieldValue_injective
  interval_cases k <;> simp [columnMul] <;> ring

theorem mul_zero_left (x : Byte) : mul 0x00 x = 0x00 :=
  fieldValue_injective (by rw [fieldValue_mul, fieldValue_zero, zero_mul])

theorem columnMul_one (s : Quad) : columnMul #v[0x01, 0x00, 0x00, 0x00] s = s := by
  have hone (x : Byte) : mul 1#8 x = x := mul_one_left x
  have hzero (x : Byte) : mul 0#8 x = 0#8 := mul_zero_left x
  ext k hk : 1
  interval_cases k <;> simp [columnMul, hone, hzero]

/-! ## MixColumns -/

theorem mixColumnByMul_eq_columnMul (s : Quad) : mixColumnByMul s = columnMul mixConstants s := by
  have hone (x : Byte) : mul 1#8 x = x := mul_one_left x
  simp [mixColumnByMul, columnMul, mixConstants, hone]

theorem invMixColumn_eq_columnMul (s : Quad) : invMixColumn s = columnMul invMixConstants s := rfl

/-- Settles O46: the two forms differ in how they write the products by 0x02 and 0x03. -/
theorem doublingFormIsTheMatrixProduct : Obligations.DoublingFormIsTheMatrixProduct := by
  intro s
  have h02 := mul_two_left
  have h03 (x : Byte) : mul 0x03 x = xtime x ^^^ x := (mixConstantsInTermsOfXtime x).2.2.1
  simp only [mixColumn, mixColumnByMul, h02, h03]

theorem mixColumn_eq_columnMul (s : Quad) : mixColumn s = columnMul mixConstants s :=
  (doublingFormIsTheMatrixProduct s).trans (mixColumnByMul_eq_columnMul s)

theorem columnMul_invMixConstants_mixConstants :
    columnMul invMixConstants mixConstants = #v[0x01, 0x00, 0x00, 0x00] := by decide

theorem columnMul_mixConstants_invMixConstants :
    columnMul mixConstants invMixConstants = #v[0x01, 0x00, 0x00, 0x00] := by decide

theorem invMixColumn_mixColumn (s : Quad) : invMixColumn (mixColumn s) = s := by
  rw [invMixColumn_eq_columnMul, mixColumn_eq_columnMul, ← columnMul_assoc,
    columnMul_invMixConstants_mixConstants, columnMul_one]

theorem mixColumn_invMixColumn (s : Quad) : mixColumn (invMixColumn s) = s := by
  rw [invMixColumn_eq_columnMul, mixColumn_eq_columnMul, ← columnMul_assoc,
    columnMul_mixConstants_invMixConstants, columnMul_one]

@[simp] theorem invMixColumns_mixColumns (st : Block) : invMixColumns (mixColumns st) = st := by
  simp only [invMixColumns, mixColumns, onColumns_onColumns, invMixColumn_mixColumn, onColumns_id]

@[simp] theorem mixColumns_invMixColumns (st : Block) : mixColumns (invMixColumns st) = st := by
  simp only [invMixColumns, mixColumns, onColumns_onColumns, mixColumn_invMixColumn, onColumns_id]

/-! ## Round steps and their inverses -/

/-- Settles O55: each cipher is the fold over its list. -/
theorem ciphersRunTheirStepLists : Obligations.CiphersRunTheirStepLists := fun ks w block =>
  ⟨cipher_eq_foldl_forwardSteps ks w block, inverseCipher_eq_foldl_inverseSteps ks w block⟩

/-- The step that undoes a step. -/
def RoundStep.inverse : RoundStep → RoundStep
  | .addRoundKey r => .addRoundKey r
  | .subBytes => .invSubBytes
  | .shiftRows => .invShiftRows
  | .mixColumns => .invMixColumns
  | .invSubBytes => .subBytes
  | .invShiftRows => .shiftRows
  | .invMixColumns => .mixColumns

theorem RoundStep.inverse_involutive : Function.Involutive RoundStep.inverse := fun x => by cases x <;> rfl

theorem applyRoundStep_inverse (w : List Byte) (st : Block) (x : RoundStep) :
    applyRoundStep w (applyRoundStep w st x) x.inverse = st := by
  cases x with
  | addRoundKey r => exact addRoundKey_addRoundKey st w r
  | subBytes => exact invSubBytes_subBytes st
  | shiftRows => exact invShiftRows_shiftRows st
  | mixColumns => exact invMixColumns_mixColumns st
  | invSubBytes => exact subBytes_invSubBytes st
  | invShiftRows => exact shiftRows_invShiftRows st
  | invMixColumns => exact mixColumns_invMixColumns st

/-- The steps that undo a list of steps: the inverse of each, the last one first. -/
def inverseList (steps : List RoundStep) : List RoundStep := (steps.map RoundStep.inverse).reverse

theorem foldl_inverseList (w : List Byte) (steps : List RoundStep) (st : Block) :
    (inverseList steps).foldl (applyRoundStep w) (steps.foldl (applyRoundStep w) st) = st := by
  induction steps generalizing st with
  | nil => rfl
  | cons x xs ih =>
    have hsplit : inverseList (x :: xs) = inverseList xs ++ [x.inverse] := by simp [inverseList]
    simp only [hsplit, List.foldl_append, List.foldl_cons, List.foldl_nil, ih, applyRoundStep_inverse]

/-- The inverse cipher undoes the forward cipher's steps one by one (R141 to R143, R146). -/
theorem inverseSteps_eq_inverseList (ks : KeySize) : inverseSteps ks = inverseList (forwardSteps ks) := by
  cases ks <;> rfl

/-- R145 on a round-key sequence, whatever key it comes from. -/
theorem inverseCipher_cipher (ks : KeySize) (w : List Byte) (block : Block) :
    inverseCipher ks w (cipher ks w block) = block := by
  rw [cipher_eq_foldl_forwardSteps, inverseCipher_eq_foldl_inverseSteps, inverseSteps_eq_inverseList,
    foldl_inverseList]

/-! ## What the step lists hold -/

theorem count_inverseList (steps : List RoundStep) (x : RoundStep) :
    (inverseList steps).count x.inverse = steps.count x := by
  rw [inverseList, List.count_reverse, List.count_map_of_injective _ _ RoundStep.inverse_involutive.injective]

/-- A step other than the key-mix stands in each full round and in the final one as often as they have it
(R128, R129). -/
theorem count_forwardSteps (ks : KeySize) {x : RoundStep} (hx : ∀ r, x ≠ .addRoundKey r) :
    (forwardSteps ks).count x =
      (ks.rounds - 2) * [RoundStep.subBytes, .shiftRows, .mixColumns].count x +
        [RoundStep.subBytes, .shiftRows].count x := by
  have hkey (r : Nat) : (RoundStep.addRoundKey r == x) = false := beq_false_of_ne (hx r).symm
  simp [forwardSteps, List.count_flatMap, List.count_cons, hkey, Function.comp_def]

theorem roundKeysUsed_inverseList (steps : List RoundStep) :
    roundKeysUsed (inverseList steps) = (roundKeysUsed steps).reverse := by
  have hmap : roundKeysUsed (steps.map RoundStep.inverse) = roundKeysUsed steps := by
    rw [roundKeysUsed, roundKeysUsed, List.filterMap_map]
    congr 1
    funext x
    cases x <;> rfl
  rw [← hmap, inverseList, roundKeysUsed, roundKeysUsed, List.filterMap_reverse]

/-- Round key 0, one for each full round, and `rounds - 1` for the final one (R130). -/
theorem roundKeysUsed_forwardSteps (ks : KeySize) : roundKeysUsed (forwardSteps ks) = List.range ks.rounds := by
  obtain ⟨n, hn⟩ := Nat.exists_eq_add_of_le' ks.two_le_rounds
  have hrange : List.range (n + 2) = 0 :: (List.range' 1 n ++ [n + 1]) := by
    rw [List.range_eq_range', List.range'_succ, List.range'_1_concat, Nat.add_comm 1 n]
  simp [forwardSteps, roundKeysUsed, hn, hrange, List.filterMap_flatMap]

/-- Settles O56: the inverse list reverses the forward one, and a key-mix is its own inverse. -/
theorem decryptionUsesTheRoundKeysInReverse : Obligations.DecryptionUsesTheRoundKeysInReverse := by
  refine fun ks => ⟨roundKeysUsed_forwardSteps ks, ?_⟩
  rw [inverseSteps_eq_inverseList, roundKeysUsed_inverseList, roundKeysUsed_forwardSteps]

/-- Settles O57: the counts of the forward list, which the inverse list has of the inverse steps. -/
theorem roundStepsRunAsOftenAsSpecified : Obligations.RoundStepsRunAsOftenAsSpecified := by
  intro ks
  have hlast : ks.rounds - 2 + 1 = ks.rounds - 1 := by have := ks.two_le_rounds; omega
  have hsub : (forwardSteps ks).count .subBytes = ks.rounds - 1 := by
    simp [count_forwardSteps, hlast]
  have hshift : (forwardSteps ks).count .shiftRows = ks.rounds - 1 := by
    simp [count_forwardSteps, hlast]
  have hmix : (forwardSteps ks).count .mixColumns = ks.rounds - 2 := by
    simp [count_forwardSteps]
  have hinv (x : RoundStep) : (inverseSteps ks).count x.inverse = (forwardSteps ks).count x := by
    rw [inverseSteps_eq_inverseList, count_inverseList]
  exact ⟨hsub, hshift, hmix, (hinv .shiftRows).trans hshift, (hinv .subBytes).trans hsub,
    (hinv .mixColumns).trans hmix⟩

/-! ## The command -/

theorem exec_of_invalid_size {i : Instr} (hi : IsKeyCommand i) {s : State} (h : ¬ ValidKeySize s.regs.ksize) :
    exec i s = .next { s with regs := s.regs.raise .invalidKeySize } := by
  rw [exec_eq, commandResult_of_invalid_size hi (keySizeOf_eq_none_iff.mpr h)]

theorem exec_of_valid_size {i : Instr} (hi : IsKeyCommand i) {ks : KeySize} {s : State}
    (h : s.regs.ksize.toNat = ks.bytes) : exec i s = .next { s with regs := s.regs.keyCommandSuccess i ks } := by
  rw [exec_eq, commandResult_of_valid_size hi (keySizeOf_eq_some_iff.mpr h)]

/-- The registers after a key command that succeeds, register by register. -/
theorem Regs.keyCommandSuccess_eq (r : Regs) (i : Instr) (ks : KeySize) :
    r.keyCommandSuccess i ks = { r with
      rk := scheduleMemory ks (expand ks (r.keyOperand ks))
      rounds := BitVec.ofNat 8 ks.rounds
      rklen := BitVec.ofNat 8 ks.sched
      dout := keyCommandBlock i ks (expand ks (r.keyOperand ks)) r
      status := statusSuccess
      errcode := noError } := by
  simp only [Regs.keyCommandSuccess, Regs.storeSchedule, Regs.setDout, Regs.succeed]

/-- Settles O20: the two outcomes of a key command, for ENCRYPT. -/
theorem encryptWritesTheCiphertext : Obligations.EncryptWritesTheCiphertext := by
  refine fun s => ⟨fun ks hks => ?_, fun hinv => ?_⟩
  · rw [exec_of_valid_size (.inr (.inl rfl)) hks, Regs.keyCommandSuccess_eq]
    rfl
  · rw [exec_of_invalid_size (.inr (.inl rfl)) hinv]
    rfl

/-- Settles O59: ENCRYPT leaves `KEY` and `KSIZE`, so DECRYPT runs the inverse cipher on the same schedule. -/
theorem encryptCopyDecryptRestoresTheBlock : Obligations.EncryptCopyDecryptRestoresTheBlock := by
  intro s hvalid
  obtain ⟨ks, hks⟩ := validKeySize_iff.mp hvalid
  have ht := exec_of_valid_size (i := .encrypt) (.inr (.inl rfl)) hks
  refine ⟨_, _, ht, exec_of_valid_size (.inr (.inr rfl)) (ks := ks) ?_, ?_, ?_, ?_⟩
  · simpa [Regs.keyCommandSuccess] using hks
  · simp [Regs.keyCommandSuccess, keyCommandBlock, Regs.keyOperand, inverseCipher_cipher]
  · simp [Regs.keyCommandSuccess, Regs.keyOperand]
  · simp [Regs.keyCommandSuccess, statusSuccess]

end Machine

end Sys2Proof
end

section
/-! PROOFS. The statements about the inverse cipher and its command (spec/44_decrypt.md). The two lists of round steps
are each other's inverse lists, so running either after the other gives the block back, whatever the round keys. -/

namespace Sys2Proof.Machine

/-- Settles O47: the two mix steps are inverse on each column. -/
theorem invMixColumnsInvertsMixColumns : Obligations.InvMixColumnsInvertsMixColumns := fun st =>
  ⟨invMixColumns_mixColumns st, mixColumns_invMixColumns st⟩

/-! ## Both orders of the round trip -/

theorem inverseList_involutive : Function.Involutive inverseList := fun steps => by
  simp [inverseList, RoundStep.inverse_involutive.comp_self]

/-- The forward cipher undoes the inverse cipher's steps one by one. -/
theorem forwardSteps_eq_inverseList (ks : KeySize) : forwardSteps ks = inverseList (inverseSteps ks) := by
  rw [inverseSteps_eq_inverseList, inverseList_involutive]

/-- The other order of R145 on a round-key sequence, whatever key it comes from. -/
theorem cipher_inverseCipher (ks : KeySize) (w : List Byte) (block : Block) :
    cipher ks w (inverseCipher ks w block) = block := by
  rw [cipher_eq_foldl_forwardSteps, inverseCipher_eq_foldl_inverseSteps, forwardSteps_eq_inverseList,
    foldl_inverseList]

/-- Settles O58: both ciphers run on the one schedule of the key. -/
theorem decryptionInvertsEncryption : Obligations.DecryptionInvertsEncryption := fun ks key block =>
  ⟨inverseCipher_cipher ks (expand ks key) block, cipher_inverseCipher ks (expand ks key) block⟩

/-! ## The command -/

/-- Settles O21: the two outcomes of a key command, for DECRYPT. -/
theorem decryptWritesThePlaintext : Obligations.DecryptWritesThePlaintext := by
  have hdecrypt : IsKeyCommand .decrypt := .inr (.inr rfl)
  refine fun s => ⟨fun ks hks => ?_, fun hinv => ?_⟩
  · rw [exec_of_valid_size hdecrypt hks, Regs.keyCommandSuccess_eq]
    rfl
  · rw [exec_of_invalid_size hdecrypt hinv]
    rfl

end Sys2Proof.Machine
end

section
/-! PROOFS. The statements about the control unit (spec/45_control.md). What a write to `CMD` comes to is
`step_of_command` or `step_of_illegal_code`, and what a command leaves in the registers is `commandResult_cases`. -/

namespace Sys2Proof.Machine

/-! ## Dispatch -/

/-- R155: the step of a write of a command's code to `CMD`. -/
theorem step_of_command_code {s : State} {c : Byte} {rest : List HostEvent} {i : Instr}
    (h : s.pending = .write cmdAddr c :: rest) (hc : c = encode i) :
    step s = exec i { s with pending := rest } :=
  step_of_command h (hc ▸ decode_encode i)

/-- Settles O3: each defined code is that of its command, and any other is the error. -/
theorem writeToCmdRunsTheCommand : Obligations.WriteToCmdRunsTheCommand := fun _ _ _ hp =>
  ⟨step_of_command_code (i := .nop) hp, step_of_command_code (i := .expand) hp,
    step_of_command_code (i := .encrypt) hp, step_of_command_code (i := .decrypt) hp,
    step_of_command_code (i := .gfmul) hp, step_of_command_code (i := .clear) hp, step_of_illegal_code hp⟩

/-- Settles O4: every command is well formed, so decoding the byte is all that its step needs. -/
theorem stepRunsTheDecodedCommand : Obligations.StepRunsTheDecodedCommand := fun _ _ _ _ hp hd _ =>
  step_of_command hp hd

/-- R69: a table word that decodes is one byte, which decodes to the same command. -/
theorem decode_of_decodeTableWord {nbits w : Nat} {i : Instr} (h : decodeTableWord nbits w = some i) :
    decode (BitVec.ofNat 8 w) = .ok i := by
  unfold decodeTableWord at h
  split at h
  · split at h
    · next hd => rw [hd, Option.some.inj h]
    · cases h
  · cases h

/-- Settles O5: the placed write is the oldest event, and taking it leaves the queue that was there. -/
theorem placedCommandRunsNext : Obligations.PlacedCommandRunsNext := fun s w _ h =>
  step_of_command (s.withFetchWord_pending 8 w) (decode_of_decodeTableWord h)

/-- Settles O6: the error writes the two status bytes. -/
theorem illegalCodeChangesOnlyTheStatusBytes : Obligations.IllegalCodeChangesOnlyTheStatusBytes :=
  fun _ _ _ hp hc => step_of_illegal_code hp hc

/-! ## The control commands -/

/-- Settles O18: the next state of NOP that `exec_eq` gives. -/
theorem nopChangesNothing : Obligations.NopChangesNothing := exec_eq .nop

/-- Settles O23: the next state of CLEAR that `exec_eq` gives. -/
theorem clearZeroesEveryRegister : Obligations.ClearZeroesEveryRegister := exec_eq .clear

/-! ## The success epilogue -/

/-- Settles O26: of the cases of a command, the two that succeed end in the epilogue, and the rejected key command
has no valid size. -/
theorem successClearsTheErrorIndication : Obligations.SuccessClearsTheErrorIndication := by
  intro s t i hnop hclear h hsuccess
  rw [exec_next h]
  rcases commandResult_cases i s.regs with
    ⟨hi, -⟩ | ⟨hi, -⟩ | ⟨-, hr⟩ | ⟨hkey, hsize, -⟩ | ⟨-, ks, -, hr⟩
  · exact absurd hi hnop
  · exact absurd hi hclear
  · rw [hr]
    exact ⟨rfl, rfl⟩
  · rcases hsuccess with rfl | hvalid
    · simp [IsKeyCommand] at hkey
    · exact absurd hvalid (keySizeOf_eq_none_iff.mp hsize)
  · rw [hr]
    exact ⟨rfl, rfl⟩

end Sys2Proof.Machine
end

section
/-! PROOFS. The statements about errors (spec/60_exceptions.md). What `ERRCODE` can hold after a command is said once,
in `commandResult_errcode_cases`; the two errors are then told apart by who can write which code. -/

namespace Sys2Proof.Machine

/-- Settles O24: what `Regs.raise` writes, for the two codes of R165. -/
theorem raiseRecordsTheErrorAndNothingElse : Obligations.RaiseRecordsTheErrorAndNothingElse := fun _ => ⟨rfl, rfl⟩

/-! ## No event stops the core -/

/-- R155: an event that brings a command to run ends the step with the command. -/
theorem step_of_fetch_command {s t : State} {i : Instr} (h : fetch s = .command i t) : step s = exec i t := by
  simp only [step, h]

/-- Settles O9: an event is done when it is taken or runs a command, and every command answers a next state. -/
theorem everyStepAnswersANextState : Obligations.EveryStepAnswersANextState := by
  intro s
  cases hf : fetch s with
  | done t => exact ⟨t, step_of_fetch_done hf⟩
  | command i t => exact ⟨_, (step_of_fetch_command hf).trans (exec_eq i t)⟩

/-! ## Who writes `ERRCODE` -/

/-- R160, R166: a command leaves `ERRCODE`, ends the error indication, or is a key command that finds an invalid
size. -/
theorem commandResult_errcode_cases (i : Instr) (r : Regs) :
    (commandResult i r).errcode = r.errcode ∨ (commandResult i r).errcode = 0x00 ∨
      (IsKeyCommand i ∧ keySizeOf r.ksize = none ∧ (commandResult i r).errcode = 0x01) := by
  rcases commandResult_cases i r with
    ⟨-, hr⟩ | ⟨-, hr⟩ | ⟨-, hr⟩ | ⟨hkey, hsize, hr⟩ | ⟨-, ks, -, hr⟩ <;> rw [hr]
  · exact .inl rfl
  · exact .inr (.inl rfl)
  · exact .inr (.inl rfl)
  · exact .inr (.inr ⟨hkey, hsize, rfl⟩)
  · exact .inr (.inl rfl)

/-- R62: the bytes below 0x06 are codes of commands, so a byte that the decoder refuses is none of them. -/
theorem illegal_of_decode_error {c : Byte} {e : DecodeError} (h : decode c = .error e) : 6 ≤ c.toNat := by
  have hcodes : ∀ k < 6, ∃ row ∈ opcodeTable, encode row.instr = BitVec.ofNat 8 k := by decide
  by_contra hlt
  obtain ⟨row, -, hrow⟩ := hcodes c.toNat (Nat.lt_of_not_le hlt)
  rw [BitVec.ofNat_toNat, BitVec.setWidth_eq] at hrow
  rw [← hrow, decode_encode] at h
  cases h

/-- Settles O7: of the cases of a step, only an illegal command byte brings the code 0x02 to `ERRCODE`. -/
theorem onlyIllegalCodesRaiseIllegalCommand : Obligations.OnlyIllegalCodesRaiseIllegalCommand := by
  intro s t h
  refine ⟨?_, fun ht hs => ?_⟩
  · rintro ⟨c, rest, hp, hc⟩
    rw [step_of_illegal_code hp hc] at h
    exact Host.Outcome.next.inj h ▸ ⟨rfl, rfl⟩
  · rcases step_cases h with ⟨-, rfl⟩ | ⟨rest, -, rfl⟩ | ⟨a, rest, -, rfl⟩ | ⟨a, v, rest, -, -, rfl⟩ |
      ⟨c, i, rest, -, -, rfl⟩ | ⟨c, rest, hp, hd, -⟩
    · exact absurd ht hs
    · simp at ht
    · exact absurd ht hs
    · obtain ⟨-, -, -, -, -, -, herrcode⟩ := s.regs.writeByte_results a v
      exact absurd (herrcode.symm.trans ht) hs
    · rcases commandResult_errcode_cases i s.regs with hr | hr | ⟨-, -, hr⟩
      · exact absurd (hr.symm.trans ht) hs
      · simp [hr] at ht
      · simp [hr] at ht
    · exact ⟨c, rest, hp, illegal_of_decode_error hd⟩

/-! ## InvalidKeySize -/

/-- A command newly sets the code 0x01 only as a key command with an invalid size. -/
theorem invalid_size_of_exec {i : Instr} {s t : State} (h : exec i s = .next t) (ht : t.regs.errcode = 0x01)
    (hs : s.regs.errcode ≠ 0x01) : IsKeyCommand i ∧ ¬ ValidKeySize s.regs.ksize := by
  rw [exec_next h] at ht
  rcases commandResult_errcode_cases i s.regs with hr | hr | ⟨hkey, hsize, -⟩
  · exact absurd (hr.symm.trans ht) hs
  · simp [hr] at ht
  · exact ⟨hkey, keySizeOf_eq_none_iff.mp hsize⟩

/-- Settles O25, clause by clause of R166. What NOP and GFMUL compute, and what CLEAR stores, does not read `KSIZE`. -/
theorem invalidKeySizeIsRaisedByKeyCommandsOnly : Obligations.InvalidKeySizeIsRaisedByKeyCommandsOnly := by
  refine ⟨fun s i hi hv => exec_of_invalid_size hi hv, fun s t i => invalid_size_of_exec,
    fun s t i v hi h => ?_, fun s v => ?_, fun s v rest hp => ?_⟩
  · rw [exec_next h]
    rcases hi with rfl | rfl
    · rfl
    · rfl
  · rw [exec_eq, exec_eq, commandResult, commandResult, Regs.cleared_eq_cleared]
  · exact step_of_register_write (loc := .ksize) hp rfl rfl (by decide)

end Sys2Proof.Machine
end

section
/-! PROOFS. The statements about reset (spec/70_reset_and_hazards.md). -/

namespace Sys2Proof.Machine

/-- R186: CLEAR leaves the registers of R32 whatever they held. -/
theorem Regs.cleared_eq_reset (r : Regs) : r.cleared = Regs.reset := rfl

/-- CLEAR is the assignment of the reset registers; the host's side of the port stays. -/
theorem exec_clear_eq_reset (s : State) : exec .clear s = .next { s with regs := Regs.reset } := by
  rw [exec_eq, commandResult, Regs.cleared_eq_reset]

/-- Settles O11: the `Reset` event takes itself from the queue and leaves the registers of `State.reset`, which is what
CLEAR does to the state with that queue. -/
theorem clearAndResetGiveTheSameRegisters : Obligations.ClearAndResetGiveTheSameRegisters := by
  intro s t rest hp h
  have ht : { s with pending := rest, regs := Regs.reset } = t :=
    Host.Outcome.next.inj ((resetEventZeroesEveryRegister s rest hp).symm.trans h)
  subst ht
  exact ⟨exec_clear_eq_reset _, State.reset_regs.symm⟩

end Sys2Proof.Machine
end
